-- ==== Sys2Proof/Word.lean ====
section
/-! DEFINITION. The word types and index types of the hardware (00_scope.md R4, R6, R8). -/

namespace Sys2Proof

/-- A 32-bit word: every register read and every written value (R4 `WORD`). -/
abbrev Word := BitVec 32

/-- One byte of the mailbox-data region (R66). -/
abbrev Byte := BitVec 8

/-- A byte offset inside a register window, as the event key carries it (R91 `off`). -/
abbrev Offset := BitVec 8

/-- A 16-bit event key (R91 to R93). -/
abbrev Key := BitVec 16

/-- A 12-bit source snapshot (R4 `SRCW`, R28). -/
abbrev Snap := BitVec 12

/-- A core index `c`, or an index of four like things (R8). -/
abbrev Core := Fin 4

/-- An index `m = 4*c + j` over the router's mailbox words (R8). -/
abbrev MboxIndex := Fin 16

/-- A channel index of the mailbox block (R8). -/
abbrev Channel := Fin 9

/-- The four core indices in ascending order: `for c in 0..3` (R6). -/
abbrev allCores : List Core := [0, 1, 2, 3]

/-- The nine channels in ascending order: `for ch in 0..8` (R6). -/
abbrev allChannels : List Channel := [0, 1, 2, 3, 4, 5, 6, 7, 8]

end Sys2Proof
end

