-- ==== Sys2Proof/Config.lean ====
section
/-! DEFINITION. What an implementation fixes (R4), what the platform chooses (R5), and the environment contract of the mailbox-data region (R75): plain-data types, and two free values without a body. -/

namespace Sys2Proof

/-- `QCAP`: entries in each queue of the mailbox block (R4). -/
abbrev Config.qcap : Nat := 32

/-- `ROUTER_WINDOW`: bytes of decoded router offsets (R4, R61). -/
abbrev Config.routerWindow : Nat := 0x100

/-- The open parameters of R5 but for `ENV`: a model takes each as an argument. State holds one such record; no step changes it. -/
structure Platform where
  /-- `ROUTER_BASE`. -/
  routerBase : Nat
  /-- `MBOX_BASE`. -/
  mboxBase : Nat
  /-- `MBOX_WINDOW_SIZE / 0x100`: the size is a multiple of 0x100 (R5), each 0x100 bytes an alias. -/
  mboxWindowPages : Nat
  /-- `MBOX_SENTINEL`, the "no data" value `S`. -/
  sentinel : Word
  /-- `MBOX_PENDING_OFFSET / 4`: the offset is a multiple of 4 and at most 12 (R5). -/
  pendingIndex : Fin 4
  /-- `MBOX_IRQ_SINK`: the platform's name for what the mailbox block's interrupt output is wired to. -/
  mboxIrqSink : Nat
  deriving DecidableEq, Repr, Inhabited

/-- `MBOX_WINDOW_SIZE` (R5). -/
def Platform.mboxWindowSize (p : Platform) : Nat := 0x100 * p.mboxWindowPages

/-- `MBOX_PENDING_OFFSET` (R5, D15): a multiple of 4, at most 12. -/
def Platform.pendingOffset (p : Platform) : Nat := 4 * p.pendingIndex.val

/-- An inbound signal event (R90, R92): the only event that may arrive nested inside a mailbox-data access (R71). The core and channel fields hold what the four key bits can hold; an index out of range is a wiring fault (R96). -/
inductive Signal where
  | localIrq (c : Fin 16) (i : Fin 4) (level : Bool)
  | gpuIrq (level : Bool)
  | gpuFiq (level : Bool)
  | channel (ch : Fin 16) (level : Bool)
  deriving DecidableEq, Repr

/-- An access the mailbox block asks of the mailbox-data region: always one 32-bit word at a byte address (R67). -/
inductive MboxRequest where
  | read (addr : Nat)
  | write (addr : Nat) (value : Word)
  deriving DecidableEq, Repr

/-- An access that was made, with the value a read returned: one entry of the history of R75. -/
inductive MboxAccess where
  | read (addr : Nat) (value : Word)
  | write (addr : Nat) (value : Word)
  deriving DecidableEq, Repr

/-- What `ENV` does at one access (R75): the value it returns (of no use at a write) and the finite list of signal events it delivers before the access returns. -/
structure EnvAnswer where
  value : Word
  nested : List Signal
  deriving DecidableEq, Repr, Inhabited

/-- FREE VALUE (log entry 2): the platform of the machine that leaves reset. Nothing is known of it. -/
opaque Config.platform : Platform

/-- FREE VALUE (log entry 3): `ENV` of R75 as a function of the history of accesses and of the access, for the accesses the answers listed in State do not cover. Nothing is known of it. -/
opaque Config.env : List MboxAccess → MboxRequest → EnvAnswer

end Sys2Proof
end

