-- ==== Sys2Proof/Syntax.lean ====
section
/-! DEFINITION. The events of the hardware (30_encoding.md R90): one constructor of Instr for each mnemonic of spec/opcode_table.json. -/

namespace Sys2Proof

/-- The two blocks (R1). -/
inductive Block where
  | router
  | mbox
  deriving DecidableEq, Repr

/-- The direction of a bus access (R90). -/
inductive BusKind where
  | read
  | write
  deriving DecidableEq, Repr

/-- The size of a bus access in bytes (R91 `sz`). -/
inductive AccessSize where
  | one
  | two
  | four
  | eight
  deriving DecidableEq, Repr

/-- An event as the environment delivers it: its 16-bit key and, beside it, the 32-bit data of a bus write (R91). The data of any other event means nothing. -/
structure Event where
  key : Key
  wdata : Word
  deriving DecidableEq, Repr

/-- The events by mnemonic. `c` is a core, `m` a mailbox word, `r` which of four identical addresses was used (R47, R52), `off` a byte offset, `w` the written word. -/
inductive Instr where
  | rdGpuRoute
  | wrGpuRoute (w : Word)
  | rdLocalRouteCtrl (c : Core)
  | wrLocalRouteCtrl (c : Core) (w : Word)
  | rdMboxRouteCtrl (c : Core)
  | wrMboxRouteCtrl (c : Core) (w : Word)
  | rdIrqSource (c : Core)
  | rdFiqSource (c : Core)
  | wrMboxSet (m : MboxIndex) (w : Word)
  | rdMbox (m : MboxIndex)
  | wrMboxClr (m : MboxIndex) (w : Word)
  | rdRouterBad (off : Offset)
  | wrRouterBad (off : Offset) (w : Word)
  | routerBadAccess (kind : BusKind) (size : AccessSize) (off : Offset) (w : Word)
  | rdPop (r : Fin 4)
  | rdPeek
  | rdSender
  | rdStatus0
  | rdConfig
  | rdStatus1
  | wrConfig (w : Word)
  | wrPush (r : Fin 4) (w : Word)
  | rdMboxBad (off : Offset)
  | wrMboxBad (off : Offset) (w : Word)
  | mboxBadAccess (kind : BusKind) (size : AccessSize) (off : Offset) (w : Word)
  | sigLocalIrq (c : Fin 16) (i : Fin 4) (level : Bool)
  | sigGpuIrq (level : Bool)
  | sigGpuFiq (level : Bool)
  | sigChannelAvailable (ch : Fin 16) (level : Bool)
  | resetRouter
  | resetMbox
  | reservedKey (key : Key)
  deriving DecidableEq, Repr

/-- The mnemonics of spec/opcode_table.json. -/
inductive Mnemonic where
  | RD_GPU_ROUTE | WR_GPU_ROUTE | RD_LOCAL_ROUTE_CTRL | WR_LOCAL_ROUTE_CTRL | RD_MBOX_ROUTE_CTRL | WR_MBOX_ROUTE_CTRL
  | RD_IRQ_SOURCE | RD_FIQ_SOURCE | WR_MBOX_SET | RD_MBOX | WR_MBOX_CLR | RD_ROUTER_BAD | WR_ROUTER_BAD | ROUTER_BAD_ACCESS
  | RD_POP | RD_PEEK | RD_SENDER | RD_STATUS0 | RD_CONFIG | RD_STATUS1 | WR_CONFIG | WR_PUSH
  | RD_MBOX_BAD | WR_MBOX_BAD | MBOX_BAD_ACCESS
  | SIG_LOCAL_IRQ | SIG_GPU_IRQ | SIG_GPU_FIQ | SIG_CHANNEL_AVAILABLE | RESET_ROUTER | RESET_MBOX | RESERVED_KEY
  deriving DecidableEq, Repr

/-- The row of the opcode table an instruction belongs to. -/
def Instr.mnemonic : Instr → Mnemonic
  | .rdGpuRoute => .RD_GPU_ROUTE
  | .wrGpuRoute _ => .WR_GPU_ROUTE
  | .rdLocalRouteCtrl _ => .RD_LOCAL_ROUTE_CTRL
  | .wrLocalRouteCtrl _ _ => .WR_LOCAL_ROUTE_CTRL
  | .rdMboxRouteCtrl _ => .RD_MBOX_ROUTE_CTRL
  | .wrMboxRouteCtrl _ _ => .WR_MBOX_ROUTE_CTRL
  | .rdIrqSource _ => .RD_IRQ_SOURCE
  | .rdFiqSource _ => .RD_FIQ_SOURCE
  | .wrMboxSet _ _ => .WR_MBOX_SET
  | .rdMbox _ => .RD_MBOX
  | .wrMboxClr _ _ => .WR_MBOX_CLR
  | .rdRouterBad _ => .RD_ROUTER_BAD
  | .wrRouterBad _ _ => .WR_ROUTER_BAD
  | .routerBadAccess _ _ _ _ => .ROUTER_BAD_ACCESS
  | .rdPop _ => .RD_POP
  | .rdPeek => .RD_PEEK
  | .rdSender => .RD_SENDER
  | .rdStatus0 => .RD_STATUS0
  | .rdConfig => .RD_CONFIG
  | .rdStatus1 => .RD_STATUS1
  | .wrConfig _ => .WR_CONFIG
  | .wrPush _ _ => .WR_PUSH
  | .rdMboxBad _ => .RD_MBOX_BAD
  | .wrMboxBad _ _ => .WR_MBOX_BAD
  | .mboxBadAccess _ _ _ _ => .MBOX_BAD_ACCESS
  | .sigLocalIrq _ _ _ => .SIG_LOCAL_IRQ
  | .sigGpuIrq _ => .SIG_GPU_IRQ
  | .sigGpuFiq _ => .SIG_GPU_FIQ
  | .sigChannelAvailable _ _ => .SIG_CHANNEL_AVAILABLE
  | .resetRouter => .RESET_ROUTER
  | .resetMbox => .RESET_MBOX
  | .reservedKey _ => .RESERVED_KEY

end Sys2Proof
end

