-- ==== Sys2Proof/WellFormed.lean ====
section
/-! DEFINITION. Which terms of Instr spell an event: the offset sets of the operation map (R97, R98), the admission check (R64) and the reserved keys (R94). -/

namespace Sys2Proof

/-- The offset is a multiple of 4 (R64). -/
def aligned (off : Offset) : Bool := off.toNat % 4 == 0

/-- An admitted access: 4 bytes at a 4-aligned offset (R64). -/
def admitted (size : AccessSize) (off : Offset) : Bool := size == .four && aligned off

/-- `lo <= off <= hi`. -/
def between (lo hi : Nat) (off : Offset) : Bool := Nat.ble lo off.toNat && Nat.ble off.toNat hi

/-- Router offsets with no read meaning: 0x00, 0x04, 0x08, 0x10..0x3C, 0x80..0xBC (R97, R151). -/
def routerReadBad (off : Offset) : Bool := between 0x00 0x08 off || between 0x10 0x3C off || between 0x80 0xBC off

/-- Router offsets with no write meaning: 0x00, 0x04, 0x08, 0x10..0x3C, 0x60..0x7C (R97, R152). -/
def routerWriteBad (off : Offset) : Bool := between 0x00 0x08 off || between 0x10 0x3C off || between 0x60 0x7C off

/-- Mailbox-block offsets with no read meaning: 0x00..0x7C, 0xA0..0xB4, 0xBC..0xFC (R98, R208). -/
def mboxReadBad (off : Offset) : Bool := between 0x00 0x7C off || between 0xA0 0xB4 off || between 0xBC 0xFC off

/-- Mailbox-block offsets with no write meaning: 0x00..0x98, 0xB0..0xFC (R98, R209). -/
def mboxWriteBad (off : Offset) : Bool := between 0x00 0x98 off || between 0xB0 0xFC off

/-- A rejected access (R65): not admitted, and a read carries no data. -/
def rejectedAccess (kind : BusKind) (size : AccessSize) (off : Offset) (w : Word) : Bool :=
  !admitted size off && (kind == .write || w == 0#32)

/-- The reserved keys of R94. -/
def isReservedKey (k : Key) : Bool :=
  let cls := k.extractLsb' 10 4
  if k.extractLsb' 14 2 == 0b11#2 then k.extractLsb' 0 13 != 0#13
  else if k.extractLsb' 14 2 == 0b10#2 then
    k.extractLsb' 1 3 != 0#3 || Nat.ble 4 cls.toNat
      || ((cls == 1#4 || cls == 2#4) && k.extractLsb' 4 6 != 0#6)
      || (cls == 3#4 && k.extractLsb' 4 2 != 0#2)
  else k.extractLsb' 8 3 != 0#3

/-- The well-formed instructions: those some event key spells. -/
def Instr.wf : Instr → Bool
  | .rdRouterBad off => aligned off && routerReadBad off
  | .wrRouterBad off _ => aligned off && routerWriteBad off
  | .routerBadAccess kind size off w => rejectedAccess kind size off w
  | .rdMboxBad off => aligned off && mboxReadBad off
  | .wrMboxBad off _ => aligned off && mboxWriteBad off
  | .mboxBadAccess kind size off w => rejectedAccess kind size off w
  | .reservedKey key => isReservedKey key
  | .rdGpuRoute | .wrGpuRoute _ | .rdLocalRouteCtrl _ | .wrLocalRouteCtrl _ _ | .rdMboxRouteCtrl _
  | .wrMboxRouteCtrl _ _ | .rdIrqSource _ | .rdFiqSource _ | .wrMboxSet _ _ | .rdMbox _ | .wrMboxClr _ _
  | .rdPop _ | .rdPeek | .rdSender | .rdStatus0 | .rdConfig | .rdStatus1 | .wrConfig _ | .wrPush _ _
  | .sigLocalIrq _ _ _ | .sigGpuIrq _ | .sigGpuFiq _ | .sigChannelAvailable _ _ | .resetRouter | .resetMbox => true

end Sys2Proof
end

