-- ==== Sys2Proof/Decode.lean ====
section
/-! DEFINITION. The decoder of event keys (30_encoding.md R91 to R98), total on every key, the encoder, the host's entry decodeTableWord, and spec/opcode_table.json as a list of rows. -/

namespace Sys2Proof

/-- The `sz` field (R91). -/
def sizeOfCode (code : BitVec 2) : AccessSize :=
  if code == 0b00#2 then .one
  else if code == 0b01#2 then .two
  else if code == 0b10#2 then .four
  else .eight

/-- `off[3:2]` (R97). -/
def offsetCore (off : Offset) : Fin 4 := ⟨(off.extractLsb' 2 2).toNat, (off.extractLsb' 2 2).isLt⟩

/-- `off[5:2]` (R97). -/
def offsetMbox (off : Offset) : Fin 16 := ⟨(off.extractLsb' 2 4).toNat, (off.extractLsb' 2 4).isLt⟩

/-- The key's block bit (R91, R93). -/
def keyBlock (k : Key) : Block := if k.getLsbD 13 then .mbox else .router

/-- The key's `off` field (R91). -/
def keyOffset (k : Key) : Offset := k.extractLsb' 0 8

/-- The key's `sz` field (R91). -/
def keySize (k : Key) : AccessSize := sizeOfCode (k.extractLsb' 11 2)

/-- An admitted router read (R97). -/
def decodeRouterRead (off : Offset) : Instr :=
  if off == 0x0C#8 then .rdGpuRoute
  else if off.extractLsb' 4 4 == 0x4#4 then .rdLocalRouteCtrl (offsetCore off)
  else if off.extractLsb' 4 4 == 0x5#4 then .rdMboxRouteCtrl (offsetCore off)
  else if off.extractLsb' 4 4 == 0x6#4 then .rdIrqSource (offsetCore off)
  else if off.extractLsb' 4 4 == 0x7#4 then .rdFiqSource (offsetCore off)
  else if off.extractLsb' 6 2 == 0b11#2 then .rdMbox (offsetMbox off)
  else .rdRouterBad off

/-- An admitted router write (R97). -/
def decodeRouterWrite (off : Offset) (w : Word) : Instr :=
  if off == 0x0C#8 then .wrGpuRoute w
  else if off.extractLsb' 4 4 == 0x4#4 then .wrLocalRouteCtrl (offsetCore off) w
  else if off.extractLsb' 4 4 == 0x5#4 then .wrMboxRouteCtrl (offsetCore off) w
  else if off.extractLsb' 6 2 == 0b10#2 then .wrMboxSet (offsetMbox off) w
  else if off.extractLsb' 6 2 == 0b11#2 then .wrMboxClr (offsetMbox off) w
  else .wrRouterBad off w

/-- An admitted mailbox-block read (R98). -/
def decodeMboxRead (off : Offset) : Instr :=
  if off.extractLsb' 4 4 == 0x8#4 then .rdPop (offsetCore off)
  else if off == 0x90#8 then .rdPeek
  else if off == 0x94#8 then .rdSender
  else if off == 0x98#8 then .rdStatus0
  else if off == 0x9C#8 then .rdConfig
  else if off == 0xB8#8 then .rdStatus1
  else .rdMboxBad off

/-- An admitted mailbox-block write (R98). -/
def decodeMboxWrite (off : Offset) (w : Word) : Instr :=
  if off == 0x9C#8 then .wrConfig w
  else if off.extractLsb' 4 4 == 0xA#4 then .wrPush (offsetCore off) w
  else .wrMboxBad off w

/-- Step 1 of R95 lets the access through: `sz == 0b10` and `off[1:0] == 0b00`. -/
def passesStep1 (size : AccessSize) (off : Offset) : Bool := size == .four && off.extractLsb' 0 2 == 0b00#2

/-- A bus access (R95): the width and alignment check comes before the offset is decoded; a rejected read carries no data. -/
def decodeBus (kind : BusKind) (blk : Block) (size : AccessSize) (off : Offset) (w : Word) : Instr :=
  match passesStep1 size off, blk, kind with
  | false, .router, .read => .routerBadAccess .read size off 0#32
  | false, .router, .write => .routerBadAccess .write size off w
  | false, .mbox, .read => .mboxBadAccess .read size off 0#32
  | false, .mbox, .write => .mboxBadAccess .write size off w
  | true, .router, .read => decodeRouterRead off
  | true, .router, .write => decodeRouterWrite off w
  | true, .mbox, .read => decodeMboxRead off
  | true, .mbox, .write => decodeMboxWrite off w

/-- A bus key (R91): bits [10:8] must be 0. -/
def decodeBusKey (kind : BusKind) (k : Key) (w : Word) : Instr :=
  if k.extractLsb' 8 3 == 0#3 then decodeBus kind (keyBlock k) (keySize k) (keyOffset k) w
  else .reservedKey k

/-- The key's `idx1` field (R92). -/
def keyIdx1 (k : Key) : Fin 16 := ⟨(k.extractLsb' 6 4).toNat, (k.extractLsb' 6 4).isLt⟩

/-- The key's `idx2` field (R92). -/
def keyIdx2 (k : Key) : Fin 4 := ⟨(k.extractLsb' 4 2).toNat, (k.extractLsb' 4 2).isLt⟩

/-- A signal key (R92): fields a class does not use must be 0 (R94); an index out of its range still spells an event (R96). -/
def decodeSignalKey (k : Key) : Instr :=
  if k.extractLsb' 1 3 != 0#3 then .reservedKey k
  else if k.extractLsb' 10 4 == 0b0000#4 then .sigLocalIrq (keyIdx1 k) (keyIdx2 k) (k.getLsbD 0)
  else if k.extractLsb' 4 2 != 0#2 then .reservedKey k
  else if k.extractLsb' 10 4 == 0b0011#4 then .sigChannelAvailable (keyIdx1 k) (k.getLsbD 0)
  else if k.extractLsb' 6 4 != 0#4 then .reservedKey k
  else if k.extractLsb' 10 4 == 0b0001#4 then .sigGpuIrq (k.getLsbD 0)
  else if k.extractLsb' 10 4 == 0b0010#4 then .sigGpuFiq (k.getLsbD 0)
  else .reservedKey k

/-- A reset key (R93). -/
def decodeResetKey (k : Key) : Instr :=
  if k == 0xC000#16 then .resetRouter
  else if k == 0xE000#16 then .resetMbox
  else .reservedKey k

/-- The decoder, total on every event: a key that spells no event (R94) decodes to `reservedKey`, which the machine refuses by that name. -/
def decode (e : Event) : Instr :=
  if e.key.extractLsb' 14 2 == 0b00#2 then decodeBusKey .read e.key e.wdata
  else if e.key.extractLsb' 14 2 == 0b01#2 then decodeBusKey .write e.key e.wdata
  else if e.key.extractLsb' 14 2 == 0b10#2 then decodeSignalKey e.key
  else decodeResetKey e.key

/-! ## The encoder -/

/-- One bit as a number. -/
def bitNat (b : Bool) : Nat := if b then 1 else 0

/-- The `sz` code of a size (R91). -/
def sizeCode : AccessSize → Nat
  | .one => 0
  | .two => 1
  | .four => 2
  | .eight => 3

/-- The `kind` bit of a bus access (R91). -/
def kindCode : BusKind → Nat
  | .read => 0
  | .write => 1

/-- The `blk` bit (R91, R93). -/
def blockCode : Block → Nat
  | .router => 0
  | .mbox => 1

/-- The bus key `kkbzz000oooooooo` (R91). -/
def busKey (kind : BusKind) (blk : Block) (size : AccessSize) (off : Offset) : Key :=
  BitVec.ofNat 16 (kindCode kind * 0x4000 + blockCode blk * 0x2000 + sizeCode size * 0x800 + off.toNat)

/-- The signal key (R92). -/
def signalKey (cls idx1 idx2 : Nat) (level : Bool) : Key :=
  BitVec.ofNat 16 (0x8000 + cls * 0x400 + idx1 * 0x40 + idx2 * 0x10 + bitNat level)

/-- An admitted read at `off` (R102 `RD`). -/
def readEvent (blk : Block) (off : Nat) : Event := ⟨busKey .read blk .four (BitVec.ofNat 8 off), 0#32⟩

/-- An admitted write at `off` (R102 `WR`). -/
def writeEvent (blk : Block) (off : Nat) (w : Word) : Event := ⟨busKey .write blk .four (BitVec.ofNat 8 off), w⟩

/-- The event of an instruction, from R91 to R93 and the offsets of R97 and R98. -/
def encode : Instr → Event
  | .rdGpuRoute => readEvent .router 0x0C
  | .wrGpuRoute w => writeEvent .router 0x0C w
  | .rdLocalRouteCtrl c => readEvent .router (0x40 + 4 * c.val)
  | .wrLocalRouteCtrl c w => writeEvent .router (0x40 + 4 * c.val) w
  | .rdMboxRouteCtrl c => readEvent .router (0x50 + 4 * c.val)
  | .wrMboxRouteCtrl c w => writeEvent .router (0x50 + 4 * c.val) w
  | .rdIrqSource c => readEvent .router (0x60 + 4 * c.val)
  | .rdFiqSource c => readEvent .router (0x70 + 4 * c.val)
  | .wrMboxSet m w => writeEvent .router (0x80 + 4 * m.val) w
  | .rdMbox m => readEvent .router (0xC0 + 4 * m.val)
  | .wrMboxClr m w => writeEvent .router (0xC0 + 4 * m.val) w
  | .rdRouterBad off => readEvent .router off.toNat
  | .wrRouterBad off w => writeEvent .router off.toNat w
  | .routerBadAccess kind size off w => ⟨busKey kind .router size off, w⟩
  | .rdPop r => readEvent .mbox (0x80 + 4 * r.val)
  | .rdPeek => readEvent .mbox 0x90
  | .rdSender => readEvent .mbox 0x94
  | .rdStatus0 => readEvent .mbox 0x98
  | .rdConfig => readEvent .mbox 0x9C
  | .rdStatus1 => readEvent .mbox 0xB8
  | .wrConfig w => writeEvent .mbox 0x9C w
  | .wrPush r w => writeEvent .mbox (0xA0 + 4 * r.val) w
  | .rdMboxBad off => readEvent .mbox off.toNat
  | .wrMboxBad off w => writeEvent .mbox off.toNat w
  | .mboxBadAccess kind size off w => ⟨busKey kind .mbox size off, w⟩
  | .sigLocalIrq c i l => ⟨signalKey 0 c.val i.val l, 0#32⟩
  | .sigGpuIrq l => ⟨signalKey 1 0 0 l, 0#32⟩
  | .sigGpuFiq l => ⟨signalKey 2 0 0 l, 0#32⟩
  | .sigChannelAvailable ch l => ⟨signalKey 3 ch.val 0 l, 0#32⟩
  | .resetRouter => ⟨0xC000#16, 0#32⟩
  | .resetMbox => ⟨0xE000#16, 0#32⟩
  | .reservedKey k => ⟨k, 0#32⟩

/-! ## The host's entry -/

/-- An event as one number: the key in bits 15..0, the data of a write in bits 47..16; bits from `nbits` on are 0. -/
def eventOfWord (nbits w : Nat) : Event :=
  ⟨BitVec.ofNat 16 (w % 2 ^ nbits), BitVec.ofNat 32 (w % 2 ^ nbits / 0x10000)⟩

/-- The instruction the decoder reads from an event of `nbits` bits: a key has 16 bits, so fewer are no event. -/
def decodeTableWord (nbits w : Nat) : Option Instr :=
  if nbits < 16 then none else some (decode (eventOfWord nbits w))

/-! ## The opcode table -/

/-- A row of spec/opcode_table.json: the keys `k` with `k & mask = value`. -/
structure OpcodeRow where
  value : Key
  mask : Key
  mnemonic : Mnemonic
  deriving DecidableEq, Repr

/-- The key fits the row's pattern. -/
def rowMatches (k : Key) (row : OpcodeRow) : Bool := k &&& row.mask == row.value

/-- Rows 1 to 11 of spec/opcode_table.json: router reads. -/
def opcodeRowsRouterReads : List OpcodeRow := [
  ⟨0x1000#16, 0xFFFB#16, .RD_ROUTER_BAD⟩,
  ⟨0x1008#16, 0xFFFF#16, .RD_ROUTER_BAD⟩,
  ⟨0x100C#16, 0xFFFF#16, .RD_GPU_ROUTE⟩,
  ⟨0x1010#16, 0xFFF3#16, .RD_ROUTER_BAD⟩,
  ⟨0x1020#16, 0xFFE3#16, .RD_ROUTER_BAD⟩,
  ⟨0x1040#16, 0xFFF3#16, .RD_LOCAL_ROUTE_CTRL⟩,
  ⟨0x1050#16, 0xFFF3#16, .RD_MBOX_ROUTE_CTRL⟩,
  ⟨0x1060#16, 0xFFF3#16, .RD_IRQ_SOURCE⟩,
  ⟨0x1070#16, 0xFFF3#16, .RD_FIQ_SOURCE⟩,
  ⟨0x1080#16, 0xFFC3#16, .RD_ROUTER_BAD⟩,
  ⟨0x10C0#16, 0xFFC3#16, .RD_MBOX⟩]

/-- Rows 12 to 21 of spec/opcode_table.json: router writes. -/
def opcodeRowsRouterWrites : List OpcodeRow := [
  ⟨0x5000#16, 0xFFFB#16, .WR_ROUTER_BAD⟩,
  ⟨0x5008#16, 0xFFFF#16, .WR_ROUTER_BAD⟩,
  ⟨0x500C#16, 0xFFFF#16, .WR_GPU_ROUTE⟩,
  ⟨0x5010#16, 0xFFF3#16, .WR_ROUTER_BAD⟩,
  ⟨0x5020#16, 0xFFE3#16, .WR_ROUTER_BAD⟩,
  ⟨0x5040#16, 0xFFF3#16, .WR_LOCAL_ROUTE_CTRL⟩,
  ⟨0x5050#16, 0xFFF3#16, .WR_MBOX_ROUTE_CTRL⟩,
  ⟨0x5060#16, 0xFFE3#16, .WR_ROUTER_BAD⟩,
  ⟨0x5080#16, 0xFFC3#16, .WR_MBOX_SET⟩,
  ⟨0x50C0#16, 0xFFC3#16, .WR_MBOX_CLR⟩]

/-- Rows 22 to 32 of spec/opcode_table.json: mailbox-block reads. -/
def opcodeRowsMboxReads : List OpcodeRow := [
  ⟨0x3000#16, 0xFF83#16, .RD_MBOX_BAD⟩,
  ⟨0x3080#16, 0xFFF3#16, .RD_POP⟩,
  ⟨0x3090#16, 0xFFFF#16, .RD_PEEK⟩,
  ⟨0x3094#16, 0xFFFF#16, .RD_SENDER⟩,
  ⟨0x3098#16, 0xFFFF#16, .RD_STATUS0⟩,
  ⟨0x309C#16, 0xFFFF#16, .RD_CONFIG⟩,
  ⟨0x30A0#16, 0xFFF3#16, .RD_MBOX_BAD⟩,
  ⟨0x30B0#16, 0xFFFB#16, .RD_MBOX_BAD⟩,
  ⟨0x30B8#16, 0xFFFF#16, .RD_STATUS1⟩,
  ⟨0x30BC#16, 0xFFFF#16, .RD_MBOX_BAD⟩,
  ⟨0x30C0#16, 0xFFC3#16, .RD_MBOX_BAD⟩]

/-- Rows 33 to 40 of spec/opcode_table.json: mailbox-block writes. -/
def opcodeRowsMboxWrites : List OpcodeRow := [
  ⟨0x7000#16, 0xFF83#16, .WR_MBOX_BAD⟩,
  ⟨0x7080#16, 0xFFF3#16, .WR_MBOX_BAD⟩,
  ⟨0x7090#16, 0xFFFB#16, .WR_MBOX_BAD⟩,
  ⟨0x7098#16, 0xFFFF#16, .WR_MBOX_BAD⟩,
  ⟨0x709C#16, 0xFFFF#16, .WR_CONFIG⟩,
  ⟨0x70A0#16, 0xFFF3#16, .WR_PUSH⟩,
  ⟨0x70B0#16, 0xFFF3#16, .WR_MBOX_BAD⟩,
  ⟨0x70C0#16, 0xFFC3#16, .WR_MBOX_BAD⟩]

/-- Rows 41 to 50 of spec/opcode_table.json: rejected reads. -/
def opcodeRowsRejectedReads : List OpcodeRow := [
  ⟨0x0000#16, 0xFF00#16, .ROUTER_BAD_ACCESS⟩,
  ⟨0x0800#16, 0xFF00#16, .ROUTER_BAD_ACCESS⟩,
  ⟨0x1800#16, 0xFF00#16, .ROUTER_BAD_ACCESS⟩,
  ⟨0x1001#16, 0xFF01#16, .ROUTER_BAD_ACCESS⟩,
  ⟨0x1002#16, 0xFF03#16, .ROUTER_BAD_ACCESS⟩,
  ⟨0x2000#16, 0xFF00#16, .MBOX_BAD_ACCESS⟩,
  ⟨0x2800#16, 0xFF00#16, .MBOX_BAD_ACCESS⟩,
  ⟨0x3800#16, 0xFF00#16, .MBOX_BAD_ACCESS⟩,
  ⟨0x3001#16, 0xFF01#16, .MBOX_BAD_ACCESS⟩,
  ⟨0x3002#16, 0xFF03#16, .MBOX_BAD_ACCESS⟩]

/-- Rows 51 to 60 of spec/opcode_table.json: rejected writes. -/
def opcodeRowsRejectedWrites : List OpcodeRow := [
  ⟨0x4000#16, 0xFF00#16, .ROUTER_BAD_ACCESS⟩,
  ⟨0x4800#16, 0xFF00#16, .ROUTER_BAD_ACCESS⟩,
  ⟨0x5800#16, 0xFF00#16, .ROUTER_BAD_ACCESS⟩,
  ⟨0x5001#16, 0xFF01#16, .ROUTER_BAD_ACCESS⟩,
  ⟨0x5002#16, 0xFF03#16, .ROUTER_BAD_ACCESS⟩,
  ⟨0x6000#16, 0xFF00#16, .MBOX_BAD_ACCESS⟩,
  ⟨0x6800#16, 0xFF00#16, .MBOX_BAD_ACCESS⟩,
  ⟨0x7800#16, 0xFF00#16, .MBOX_BAD_ACCESS⟩,
  ⟨0x7001#16, 0xFF01#16, .MBOX_BAD_ACCESS⟩,
  ⟨0x7002#16, 0xFF03#16, .MBOX_BAD_ACCESS⟩]

/-- Rows 61 to 69 of spec/opcode_table.json: reserved bus keys, signals, reserved classes. -/
def opcodeRowsSignals : List OpcodeRow := [
  ⟨0x0100#16, 0x8100#16, .RESERVED_KEY⟩,
  ⟨0x0200#16, 0x8300#16, .RESERVED_KEY⟩,
  ⟨0x0400#16, 0x8700#16, .RESERVED_KEY⟩,
  ⟨0x8000#16, 0xFC0E#16, .SIG_LOCAL_IRQ⟩,
  ⟨0x8400#16, 0xFFFE#16, .SIG_GPU_IRQ⟩,
  ⟨0x8800#16, 0xFFFE#16, .SIG_GPU_FIQ⟩,
  ⟨0x8C00#16, 0xFC3E#16, .SIG_CHANNEL_AVAILABLE⟩,
  ⟨0x9000#16, 0xF000#16, .RESERVED_KEY⟩,
  ⟨0xA000#16, 0xE000#16, .RESERVED_KEY⟩]

/-- Rows 70 to 81 of spec/opcode_table.json: reserved signal keys, local and GPU IRQ. -/
def opcodeRowsReservedA : List OpcodeRow := [
  ⟨0x8002#16, 0xFC02#16, .RESERVED_KEY⟩,
  ⟨0x8004#16, 0xFC06#16, .RESERVED_KEY⟩,
  ⟨0x8008#16, 0xFC0E#16, .RESERVED_KEY⟩,
  ⟨0x8402#16, 0xFC02#16, .RESERVED_KEY⟩,
  ⟨0x8404#16, 0xFC06#16, .RESERVED_KEY⟩,
  ⟨0x8408#16, 0xFC0E#16, .RESERVED_KEY⟩,
  ⟨0x8410#16, 0xFC1E#16, .RESERVED_KEY⟩,
  ⟨0x8420#16, 0xFC3E#16, .RESERVED_KEY⟩,
  ⟨0x8440#16, 0xFC7E#16, .RESERVED_KEY⟩,
  ⟨0x8480#16, 0xFCFE#16, .RESERVED_KEY⟩,
  ⟨0x8500#16, 0xFDFE#16, .RESERVED_KEY⟩,
  ⟨0x8600#16, 0xFFFE#16, .RESERVED_KEY⟩]

/-- Rows 82 to 95 of spec/opcode_table.json: reserved signal keys, GPU FIQ and channel. -/
def opcodeRowsReservedB : List OpcodeRow := [
  ⟨0x8802#16, 0xFC02#16, .RESERVED_KEY⟩,
  ⟨0x8804#16, 0xFC06#16, .RESERVED_KEY⟩,
  ⟨0x8808#16, 0xFC0E#16, .RESERVED_KEY⟩,
  ⟨0x8810#16, 0xFC1E#16, .RESERVED_KEY⟩,
  ⟨0x8820#16, 0xFC3E#16, .RESERVED_KEY⟩,
  ⟨0x8840#16, 0xFC7E#16, .RESERVED_KEY⟩,
  ⟨0x8880#16, 0xFCFE#16, .RESERVED_KEY⟩,
  ⟨0x8900#16, 0xFDFE#16, .RESERVED_KEY⟩,
  ⟨0x8A00#16, 0xFFFE#16, .RESERVED_KEY⟩,
  ⟨0x8C02#16, 0xFC02#16, .RESERVED_KEY⟩,
  ⟨0x8C04#16, 0xFC06#16, .RESERVED_KEY⟩,
  ⟨0x8C08#16, 0xFC0E#16, .RESERVED_KEY⟩,
  ⟨0x8C10#16, 0xFC1E#16, .RESERVED_KEY⟩,
  ⟨0x8C20#16, 0xFC3E#16, .RESERVED_KEY⟩]

/-- Rows 96 to 110 of spec/opcode_table.json: resets and reserved reset keys. -/
def opcodeRowsResets : List OpcodeRow := [
  ⟨0xC000#16, 0xFFFF#16, .RESET_ROUTER⟩,
  ⟨0xE000#16, 0xFFFF#16, .RESET_MBOX⟩,
  ⟨0xC001#16, 0xC001#16, .RESERVED_KEY⟩,
  ⟨0xC002#16, 0xC003#16, .RESERVED_KEY⟩,
  ⟨0xC004#16, 0xC007#16, .RESERVED_KEY⟩,
  ⟨0xC008#16, 0xC00F#16, .RESERVED_KEY⟩,
  ⟨0xC010#16, 0xC01F#16, .RESERVED_KEY⟩,
  ⟨0xC020#16, 0xC03F#16, .RESERVED_KEY⟩,
  ⟨0xC040#16, 0xC07F#16, .RESERVED_KEY⟩,
  ⟨0xC080#16, 0xC0FF#16, .RESERVED_KEY⟩,
  ⟨0xC100#16, 0xC1FF#16, .RESERVED_KEY⟩,
  ⟨0xC200#16, 0xC3FF#16, .RESERVED_KEY⟩,
  ⟨0xC400#16, 0xC7FF#16, .RESERVED_KEY⟩,
  ⟨0xC800#16, 0xCFFF#16, .RESERVED_KEY⟩,
  ⟨0xD000#16, 0xDFFF#16, .RESERVED_KEY⟩]

/-- spec/opcode_table.json, row by row in its order. -/
def opcodeTable : List OpcodeRow :=
  opcodeRowsRouterReads ++ opcodeRowsRouterWrites ++ opcodeRowsMboxReads ++ opcodeRowsMboxWrites ++ opcodeRowsRejectedReads ++ opcodeRowsRejectedWrites ++ opcodeRowsSignals ++ opcodeRowsReservedA ++ opcodeRowsReservedB ++ opcodeRowsResets

/-- The rows a key fits. -/
def rowsOf (k : Key) : List OpcodeRow := opcodeTable.filter (rowMatches k)

end Sys2Proof
end

