-- ==== Sys2Proof/Machine/State.lean ====
section
/-! DEFINITION. Every piece of state of 10_state.md (R20, R30, R38, R39), the model's own bookkeeping beside it, the stops, and the state right after reset (R260 to R262). -/

namespace Sys2Proof.Machine

/-- The Interrupt Router's state (R20). `mailbox_bits` is not stored (R27). -/
structure Router where
  /-- `local_irq_bits[c]`: bit `i` is the last level on local line `(c, i)` (R21). -/
  localIrqBits : Vector (BitVec 4) 4
  /-- `gpu_irq_level` (R22). -/
  gpuIrqLevel : Bool
  /-- `gpu_fiq_level` (R22). -/
  gpuFiqLevel : Bool
  /-- `gpu_irq_route`: a 2-bit core index (R23). -/
  gpuIrqRoute : BitVec 2
  /-- `gpu_fiq_route`: a 2-bit core index (R23). -/
  gpuFiqRoute : BitVec 2
  /-- `local_route_ctrl[c]`: IRQ enables in the low nibble, FIQ enables in the high one (R24). -/
  localRouteCtrl : Vector (BitVec 8) 4
  /-- `mailbox_route_ctrl[c]` (R25). -/
  mailboxRouteCtrl : Vector (BitVec 8) 4
  /-- `mbox_word[m]` (R26). -/
  mboxWord : Vector Word 16
  /-- `irq_source[c]` (R28). -/
  irqSource : Vector Snap 4
  /-- `fiq_source[c]` (R28). -/
  fiqSource : Vector Snap 4
  /-- `irq_out[c]`, 1 asserted (R29). -/
  irqOut : Vector Bool 4
  /-- `fiq_out[c]`, 1 asserted (R29). -/
  fiqOut : Vector Bool 4
  deriving DecidableEq, Repr

/-- A queue of the mailbox block: 32 slots and an occupancy count (R31). EMPTY and FULL are not stored (R33). -/
structure Queue where
  /-- `q.reg[n]`. -/
  reg : Vector Word 32
  /-- `q.count`, 0 to 32. -/
  count : Nat
  deriving DecidableEq, Repr

/-- The Mailbox Semaphore Block's state (R30). -/
structure Mbox where
  /-- `rq`, the host-read queue (R32). -/
  rq : Queue
  /-- `wq`, the host-write queue (R32). -/
  wq : Queue
  /-- `config_irq_en` (R34). -/
  configIrqEn : Bool
  /-- `channel_available[ch]` (R35). -/
  channelAvailable : Vector Bool 9
  /-- `update_in_progress`, the recursion guard (R36). -/
  updateInProgress : Bool
  /-- `mbox_irq_out` (R37). -/
  mboxIrqOut : Bool
  deriving DecidableEq, Repr

/-- The kinds of diagnostic (R231). -/
inductive DiagKind where
  | badAccess
  | routerBadRead
  | routerBadWrite
  | mboxBadRead
  | mboxBadWrite
  | mboxWqFull
  | mboxInvalidChannel
  deriving DecidableEq, Repr

/-- A record of the diagnostic log (R38). -/
structure Diag where
  block : Block
  kind : DiagKind
  offset : Offset
  value : Word
  deriving DecidableEq, Repr

/-- The kinds of fatal outcome (R233). -/
inductive FatalKind where
  /-- `FATAL_SIGNAL_INDEX`: a signal index out of its range (R125, R211). -/
  | signalIndex
  /-- `FATAL_QUEUE_INVARIANT`: a push on a full or a pull from an empty queue (R170, R171). -/
  | queueInvariant
  /-- `FATAL_STATE_INVARIANT`: a restored snapshot that violates an invariant (R57). -/
  | stateInvariant
  deriving DecidableEq, Repr

/-- The whole machine. The last five fields are the model's own (log entries 3, 4, 5, 6). -/
structure State where
  /-- The Interrupt Router (R20). -/
  router : Router
  /-- The Mailbox Semaphore Block (R30). -/
  mbox : Mbox
  /-- The diagnostic log, oldest first (R38). -/
  diagLog : List Diag
  /-- The router's fatal flag (R39), with the kind that set it: `none` is a clear flag. -/
  routerFatal : Option FatalKind
  /-- The mailbox block's fatal flag (R39), with the kind that set it. -/
  mboxFatal : Option FatalKind
  /-- The open parameters (R5); no step changes them. -/
  platform : Platform
  /-- The events the environment has still to deliver, in their total order (R70). -/
  inbox : List Event
  /-- The answers the environment will give to the next mailbox-data accesses (R75). -/
  envAnswers : List EnvAnswer
  /-- The mailbox-data accesses made so far, oldest first (the history of R75). -/
  mboxHistory : List MboxAccess
  /-- `rdata` of the event just processed: the value a bus read returned (R90), `none` after any other event. -/
  rdata : Option Word
  deriving DecidableEq, Repr

/-- Why the machine stops with a fault. -/
inductive Fault where
  /-- Raised by every meaning for an event of a block whose fatal flag is set: the block processes no further event, reset included (R39, R233, I26). Safe: it is what the spec says. -/
  | blockStopped (block : Block)
  deriving DecidableEq, Repr

/-- Why the machine refuses an event. -/
inductive Refusal where
  /-- Raised by no arm that stands now: an instruction without a meaning. Safe. -/
  | notModelled (mnemonic : String)
  /-- Raised by execReservedKey: the key spells no event (R94, I22). Safe: no hardware interface can produce it. -/
  | reservedKey (key : Key)
  deriving DecidableEq, Repr

/-- The router right after its reset: every field 0, every line deasserted (R260). -/
def Router.reset : Router where
  localIrqBits := Vector.replicate 4 0#4
  gpuIrqLevel := false
  gpuFiqLevel := false
  gpuIrqRoute := 0#2
  gpuFiqRoute := 0#2
  localRouteCtrl := Vector.replicate 4 0#8
  mailboxRouteCtrl := Vector.replicate 4 0#8
  mboxWord := Vector.replicate 16 0#32
  irqSource := Vector.replicate 4 0#12
  fiqSource := Vector.replicate 4 0#12
  irqOut := Vector.replicate 4 false
  fiqOut := Vector.replicate 4 false

/-- An empty queue: every slot holds the sentinel (R261). -/
def Queue.empty (sentinel : Word) : Queue where
  reg := Vector.replicate 32 sentinel
  count := 0

/-- The mailbox block right after its reset (R261). -/
def Mbox.reset (sentinel : Word) : Mbox where
  rq := Queue.empty sentinel
  wq := Queue.empty sentinel
  configIrqEn := false
  channelAvailable := Vector.replicate 9 false
  updateInProgress := false
  mboxIrqOut := false

/-- The machine as constructed on a platform (R262): each block as its reset leaves it, an empty log, clear fatal flags; no event and no answer is waiting (log entry 4). -/
def State.construct (p : Platform) : State where
  router := Router.reset
  mbox := Mbox.reset p.sentinel
  diagLog := []
  routerFatal := none
  mboxFatal := none
  platform := p
  inbox := []
  envAnswers := []
  mboxHistory := []
  rdata := none

/-- The machine right after reset, on a platform of which nothing is known (R5). -/
def State.reset : State := State.construct Config.platform

end Sys2Proof.Machine
end

