-- ==== Sys2Proof/Machine/Operands.lean ====
section
/-! DEFINITION. The operand forms: one bit of a field (R6), fields of written values (R99), packing of read values (R40 to R53), addresses of mailbox-data cells (R63) and their bytes (R66). -/

namespace Sys2Proof.Machine

/-- `v` with bit `i` made `b` (the pseudocode's `v[i] <- b`, R6); a bit past the width is no bit. -/
def setBit {n : Nat} (v : BitVec n) (i : Nat) (b : Bool) : BitVec n :=
  if b then v ||| (1#n <<< i) else v &&& ~~~(1#n <<< i)

/-- `gpu_irq_route <- wdata[1:0]` (R99). -/
def gpuIrqField (w : Word) : BitVec 2 := w.extractLsb' 0 2

/-- `gpu_fiq_route <- wdata[3:2]` (R99). -/
def gpuFiqField (w : Word) : BitVec 2 := w.extractLsb' 2 2

/-- `ctrl <- wdata[7:0]` (R99). -/
def ctrlField (w : Word) : BitVec 8 := w.extractLsb' 0 8

/-- `config_irq_en <- wdata[0]` (R99). -/
def configField (w : Word) : Bool := w.getLsbD 0

/-- `ch = wdata[3:0]` of a push (R99). -/
def pushChannelField (w : Word) : Nat := (w.extractLsb' 0 4).toNat

/-- The core a 2-bit routing index names (R23). -/
def routeCore (route : BitVec 2) : Core := ⟨route.toNat, route.isLt⟩

/-- GPU_ROUTE as read: `zext_32((gpu_fiq_route << 2) | gpu_irq_route)` (R140). -/
def gpuRouteWord (r : Router) : Word := (r.gpuFiqRoute.setWidth 32 <<< 2) ||| r.gpuIrqRoute.setWidth 32

/-- CONFIG as read: `zext_32(config_irq_en)` (R204). -/
def configWord (m : Mbox) : Word := if m.configIrqEn then 1#32 else 0#32

/-- `m = 4*c + j` (R8). -/
def mboxIndex (c j : Fin 4) : MboxIndex := ⟨4 * c.val + j.val, by omega⟩

/-- The byte address of a channel's payload cell: `ch << 4` (R63). -/
def payloadAddr (ch : Nat) : Nat := 16 * ch

/-- The byte address of a channel's pending cell: `(ch << 4) + MBOX_PENDING_OFFSET` (R63). -/
def pendingAddr (p : Platform) (ch : Nat) : Nat := payloadAddr ch + p.pendingOffset

/-- The offset of a PUSH access: 0xA0, 0xA4, 0xA8 or 0xAC (R52). -/
def pushOffset (r : Fin 4) : Offset := BitVec.ofNat 8 (0xA0 + 4 * r.val)

/-- Byte `k` of a word: bits `8k+7 .. 8k` (R66). -/
def wordByte (k : Nat) (v : Word) : Byte := v.extractLsb' (8 * k) 8

/-- A word at a byte address, little-endian: byte `k` at `addr + k` (R66, R67). -/
def wordCells (addr : Nat) (v : Word) : List Host.Cell :=
  [(addr, wordByte 0 v), (addr + 1, wordByte 1 v), (addr + 2, wordByte 2 v), (addr + 3, wordByte 3 v)]

/-- The bytes of the mailbox-data region an access moves (R66). -/
def accessCells : MboxAccess → List Host.Cell
  | .read addr v => wordCells addr v
  | .write addr v => wordCells addr v

end Sys2Proof.Machine
end

