-- ==== Sys2Proof/Machine/Flags.lean ====
section
/-! DEFINITION. Derived status: queue status words (R33), mailbox bits (R27), and RouterRecompute with the routing and masking matrix and the output lines (R120). -/

namespace Sys2Proof.Machine

/-- EMPTY (R33, R172). -/
def Queue.isEmpty (q : Queue) : Bool := q.count == 0

/-- FULL (R33, R172). -/
def Queue.isFull (q : Queue) : Bool := q.count == Config.qcap

/-- `Status(q)`: FULL in bit 31, EMPTY in bit 30, the rest 0 (R33). -/
def Queue.status (q : Queue) : Word :=
  (if q.isFull then 1#32 <<< 31 else 0#32) ||| (if q.isEmpty then 1#32 <<< 30 else 0#32)

/-- The entries of a queue, oldest first: `q.reg[0 .. q.count-1]` (R31). -/
def Queue.entries (q : Queue) : List Word := q.reg.toList.take q.count

/-- `mailbox_bits[c][j]` (R27). -/
def Router.mailboxBit (r : Router) (c j : Core) : Bool := r.mboxWord[mboxIndex c j] != 0#32

/-- `mailbox_bits[c]` (R27). -/
def Router.mailboxBits (r : Router) (c : Core) : BitVec 4 :=
  allCores.foldl (fun v j => setBit v j.val (r.mailboxBit c j)) 0#4

/-! ## RouterRecompute (R120), step by step -/

/-- Step 1: both snapshots of every core become 0. -/
def clearSources (r : Router) : Router :=
  { r with irqSource := Vector.replicate 4 0#12, fiqSource := Vector.replicate 4 0#12 }

/-- `irq_source[c][n] <- 1`. -/
def markIrq (c : Core) (n : Nat) (r : Router) : Router :=
  { r with irqSource := r.irqSource.set c (setBit r.irqSource[c] n true) }

/-- `fiq_source[c][n] <- 1`. -/
def markFiq (c : Core) (n : Nat) (r : Router) : Router :=
  { r with fiqSource := r.fiqSource.set c (setBit r.fiqSource[c] n true) }

/-- Step 2: the GPU IRQ in bit 8 of the core its route names (R122). -/
def markGpuIrq (r : Router) : Router := if r.gpuIrqLevel then markIrq (routeCore r.gpuIrqRoute) 8 r else r

/-- Step 3: the GPU FIQ in bit 8 of the core its route names (R122). -/
def markGpuFiq (r : Router) : Router := if r.gpuFiqLevel then markFiq (routeCore r.gpuFiqRoute) 8 r else r

/-- One source of core `c`: FIQ if its FIQ enable is set, else IRQ if its IRQ enable is set, else masked (R121). `k` is the source's index in the nibbles of `ctrl`, `n` its bit in the snapshots. -/
def markSource (active : Bool) (ctrl : BitVec 8) (c : Core) (k n : Nat) (r : Router) : Router :=
  if active then
    if ctrl.getLsbD (4 + k) then markFiq c n r
    else if ctrl.getLsbD k then markIrq c n r
    else r
  else r

/-- Step 4 for core `c`: its four local sources. -/
def markLocal (c : Core) (r : Router) : Router :=
  allCores.foldl (fun r i => markSource (r.localIrqBits[c].getLsbD i.val) r.localRouteCtrl[c] c i.val i.val r) r

/-- Step 5 for core `c`: its four mailbox sources. -/
def markMailbox (c : Core) (r : Router) : Router :=
  allCores.foldl (fun r j => markSource (r.mailboxBit c j) r.mailboxRouteCtrl[c] c j.val (4 + j.val) r) r

/-- `SetLine(irq_out[c], irq_source[c] != 0)` and the same for FIQ (R123). -/
def driveCore (c : Core) (r : Router) : Router :=
  { r with irqOut := r.irqOut.set c (r.irqSource[c] != 0#12), fiqOut := r.fiqOut.set c (r.fiqSource[c] != 0#12) }

/-- `RouterRecompute()` (R120): the six steps in the spec's order. Irreducible for the elaborator only: proofs cite its lemmas, the kernel evaluates it. -/
@[irreducible] def routerRecompute (r : Router) : Router :=
  let r := markGpuFiq (markGpuIrq (clearSources r))
  let r := allCores.foldl (fun r c => markMailbox c (markLocal c r)) r
  allCores.foldl (fun r c => driveCore c r) r

/-! ## The closed form (R120) -/

/-- `fiq_source[c]` in closed form (R120). -/
def Router.fiqClosed (r : Router) (c : Core) : Snap :=
  let lc := r.localRouteCtrl[c]
  let mc := r.mailboxRouteCtrl[c]
  (r.localIrqBits[c] &&& lc.extractLsb' 4 4).setWidth 12
    ||| ((r.mailboxBits c &&& mc.extractLsb' 4 4).setWidth 12 <<< 4)
    ||| (if r.gpuFiqLevel && routeCore r.gpuFiqRoute == c then 1#12 <<< 8 else 0#12)

/-- `irq_source[c]` in closed form (R120). -/
def Router.irqClosed (r : Router) (c : Core) : Snap :=
  let lc := r.localRouteCtrl[c]
  let mc := r.mailboxRouteCtrl[c]
  (r.localIrqBits[c] &&& lc.extractLsb' 0 4 &&& ~~~(lc.extractLsb' 4 4)).setWidth 12
    ||| ((r.mailboxBits c &&& mc.extractLsb' 0 4 &&& ~~~(mc.extractLsb' 4 4)).setWidth 12 <<< 4)
    ||| (if r.gpuIrqLevel && routeCore r.gpuIrqRoute == c then 1#12 <<< 8 else 0#12)

/-- The level `mbox_irq_out` is driven to (R177). -/
def Mbox.irqLevel (m : Mbox) : Bool := m.rq.count != 0 && m.configIrqEn

end Sys2Proof.Machine
end

