-- ==== Sys2Proof/Machine/Ops.lean ====
section
/-! DEFINITION. The shared operations: diagnostics and the fatal stop (60_exceptions.md), the queue primitives (R170, R171), the access to the mailbox-data region (R75), signals (R125 to R127, R211), the drain and MboxRecompute (R173), and the frame of an event. -/

namespace Sys2Proof.Machine

/-! ## Diagnostics and the fatal stop -/

/-- The codes of R231. -/
def DiagKind.code : DiagKind → Nat
  | .badAccess => 1
  | .routerBadRead => 2
  | .routerBadWrite => 3
  | .mboxBadRead => 4
  | .mboxBadWrite => 5
  | .mboxWqFull => 6
  | .mboxInvalidChannel => 7

/-- `Diag(kind, offset, value)`: append a record, and nothing else (R232). -/
def logDiag (b : Block) (k : DiagKind) (off : Offset) (v : Word) (s : State) : State :=
  { s with diagLog := s.diagLog ++ [⟨b, k, off, v⟩] }

/-- `raise Fatal(kind)`: the block's fatal flag is set and never cleared (R39, R233). A flag that is set keeps its kind. -/
def raiseFatal (b : Block) (k : FatalKind) (s : State) : State :=
  match b with
  | .router => { s with routerFatal := s.routerFatal.or (some k) }
  | .mbox => { s with mboxFatal := s.mboxFatal.or (some k) }

/-- The block's fatal flag is set (R39). -/
def stopped (b : Block) (s : State) : Bool :=
  match b with
  | .router => s.routerFatal.isSome
  | .mbox => s.mboxFatal.isSome

/-- The rest of what a block does, left out once the block has stopped (R233). -/
def unlessStopped (b : Block) (f : State → State) (s : State) : State := if stopped b s then s else f s

/-! ## The frame of an event -/

/-- The value a bus read returns (R7 `return v`). -/
def reply (v : Word) (s : State) : State := { s with rdata := some v }

/-- A top-level event of block `b`: a stopped block takes none (R233, I26), and an event that returns nothing leaves no `rdata`. -/
def onEvent (b : Block) (f : State → State) (s : State) : Host.Outcome State Fault Refusal :=
  if stopped b s then .fault (.blockStopped b) else .next (f { s with rdata := none })

/-! ## Router state -/

/-- A change of the router's inputs followed by RouterRecompute (R124). -/
def updateRouter (f : Router → Router) (s : State) : State := { s with router := routerRecompute (f s.router) }

/-- `local_irq_bits[c][i] <- l` (R125). -/
def Router.setLocalIrq (c i : Core) (l : Bool) (r : Router) : Router :=
  { r with localIrqBits := r.localIrqBits.set c (setBit r.localIrqBits[c] i.val l) }

/-! ## Queues -/

/-- The content of slot `n` (the sentinel past the last slot, which no rule reads). -/
def slotAt (sentinel : Word) (reg : Vector Word 32) (n : Nat) : Word := reg[n]?.getD sentinel

/-- `q.reg[q.count] <- v` and `q.count <- q.count + 1` (R170). -/
def Queue.push (v : Word) (q : Queue) : Queue where
  reg := q.reg.setIfInBounds q.count v
  count := q.count + 1

/-- The compaction of R171: each entry moves one slot down, and the vacated tail slot becomes the sentinel. -/
def Queue.pull (sentinel : Word) (q : Queue) : Queue where
  reg := ((List.range (q.count - 1)).foldl (fun reg n => reg.setIfInBounds n (slotAt sentinel reg (n + 1))) q.reg).setIfInBounds (q.count - 1) sentinel
  count := q.count - 1

/-- `QueuePush(rq, v)` (R170): a full queue is an invariant violation. -/
def pushRq (v : Word) (s : State) : State :=
  if Config.qcap ≤ s.mbox.rq.count then raiseFatal .mbox .queueInvariant s
  else { s with mbox := { s.mbox with rq := s.mbox.rq.push v } }

/-- `QueuePush(wq, v)` (R170). -/
def pushWq (v : Word) (s : State) : State :=
  if Config.qcap ≤ s.mbox.wq.count then raiseFatal .mbox .queueInvariant s
  else { s with mbox := { s.mbox with wq := s.mbox.wq.push v } }

/-- `QueuePull(rq)` (R171) but for the value it returns, `rq.reg[0]`: an empty queue is an invariant violation. -/
def pullRq (s : State) : State :=
  if s.mbox.rq.count = 0 then raiseFatal .mbox .queueInvariant s
  else { s with mbox := { s.mbox with rq := s.mbox.rq.pull s.platform.sentinel } }

/-! ## The mailbox-data region -/

/-- The environment's next answer: the first one listed, or the free value of Config when none is (R75; log entry 3). -/
def nextAnswer (req : MboxRequest) (s : State) : EnvAnswer :=
  match s.envAnswers with
  | a :: _ => a
  | [] => Config.env s.mboxHistory req

/-- The entry of the history an access makes (R75). -/
def recordOf (v : Word) : MboxRequest → MboxAccess
  | .read addr => .read addr v
  | .write addr w => .write addr w

/-- The access is made: the answer is used up and the history has one more entry. -/
def useAnswer (req : MboxRequest) (s : State) : State :=
  { s with envAnswers := s.envAnswers.tail, mboxHistory := s.mboxHistory ++ [recordOf (nextAnswer req s).value req] }

/-- `MemRead` or `MemWrite` of the mailbox-data region (R7, R75): the access, then each nested signal event in the order the environment delivers it, before the access returns (R71). -/
def memAccess (deliver : Signal → State → State) (req : MboxRequest) (s : State) : State :=
  (nextAnswer req s).nested.foldl (fun s sig => deliver sig s) (useAnswer req s)

/-! ## Signals -/

/-- `SIG_LOCAL_IRQ(c, i, l)` (R125). -/
def sigLocalIrq (c : Fin 16) (i : Fin 4) (l : Bool) (s : State) : State :=
  if h : c.val < 4 then updateRouter (Router.setLocalIrq ⟨c.val, h⟩ i l) s
  else raiseFatal .router .signalIndex s

/-- `SIG_GPU_IRQ(l)` (R126). -/
def sigGpuIrq (l : Bool) (s : State) : State := updateRouter (fun r => { r with gpuIrqLevel := l }) s

/-- `SIG_GPU_FIQ(l)` (R127). -/
def sigGpuFiq (l : Bool) (s : State) : State := updateRouter (fun r => { r with gpuFiqLevel := l }) s

/-- `channel_available[ch] <- l`. -/
def setChannel (ch : Channel) (l : Bool) (s : State) : State :=
  { s with mbox := { s.mbox with channelAvailable := s.mbox.channelAvailable.set ch l } }

/-- `SIG_CHANNEL_AVAILABLE(ch, l)` (R211), with the recompute it starts when the guard is 0 as an argument. -/
def sigChannel (recompute : State → State) (ch : Fin 16) (l : Bool) (s : State) : State :=
  if h : ch.val < 9 then
    let s := setChannel ⟨ch.val, h⟩ l s
    if s.mbox.updateInProgress then s else recompute s
  else raiseFatal .mbox .signalIndex s

/-- A nested signal event, to the block it belongs to, under the rules of its kind (R71). A stopped block processes it no more (R39; log entry 7). -/
def deliverSignal (recompute : State → State) : Signal → State → State
  | .localIrq c i l => unlessStopped .router (sigLocalIrq c i l)
  | .gpuIrq l => unlessStopped .router (sigGpuIrq l)
  | .gpuFiq l => unlessStopped .router (sigGpuFiq l)
  | .channel ch l => unlessStopped .mbox (sigChannel recompute ch l)

/-! ## The drain and MboxRecompute -/

/-- A signal nested in a drain read: the guard is 1, so no recompute starts (R175) and which one is named does not matter. -/
def deliverInDrain (sig : Signal) (s : State) : State := deliverSignal id sig s

/-- One pass of the scan over the channels still to be reached (R173): the first available channel whose payload cell does not read the sentinel is pulled, and the pass ends. The flag says whether the pass pulled. -/
def drainScan : List Channel → State → Bool × State
  | [], s => (false, s)
  | ch :: rest, s =>
    if s.mbox.channelAvailable[ch] then
      let v := (nextAnswer (.read (payloadAddr ch.val)) s).value
      let s := memAccess deliverInDrain (.read (payloadAddr ch.val)) s
      if stopped .mbox s then (false, s)
      else if v != s.platform.sentinel then (true, pushRq v s)
      else drainScan rest s
    else drainScan rest s

/-- The outer loop of the drain (R173), at most `n` passes: it ends when `rq` is full, when a pass pulls nothing, or when the block stops. -/
def drainLoop : Nat → State → State
  | 0, s => s
  | n + 1, s =>
    if s.mbox.rq.isFull then s
    else
      match drainScan allChannels s with
      | (true, s') => if stopped .mbox s' then s' else drainLoop n s'
      | (false, s') => s'

/-- At most 33 passes (R176). -/
def drainPasses : Nat := 33

/-- `update_in_progress <- b`. -/
def setGuard (b : Bool) (s : State) : State := { s with mbox := { s.mbox with updateInProgress := b } }

/-- `SetLine(mbox_irq_out, (rq.count != 0) and (config_irq_en == 1))` (R173, R177). -/
def driveMboxIrq (s : State) : State := { s with mbox := { s.mbox with mboxIrqOut := s.mbox.irqLevel } }

/-- `MboxRecompute()` (R173). A fatal signal during the drain stops the block where it stands (R233). Irreducible for the elaborator only, as routerRecompute is. -/
@[irreducible] def mboxRecompute (s : State) : State :=
  unlessStopped .mbox (fun s => driveMboxIrq (setGuard false s)) (drainLoop drainPasses (setGuard true s))

/-- A signal nested in an access of a push: the guard is 0, so a channel signal runs its own MboxRecompute (R207, R211). -/
def deliverInPush (sig : Signal) (s : State) : State := deliverSignal mboxRecompute sig s

/-- The end of a mapped mailbox access that returns `v`: MboxRecompute, then the value (R200 to R204). A block that stopped returns nothing. -/
def recomputeThenReply (v : Word) (s : State) : State := unlessStopped .mbox (reply v) (mboxRecompute s)

end Sys2Proof.Machine
end

