-- ==== Sys2Proof/Machine/MboxRegs.lean ====
section
/-! DEFINITION. The mailbox block's register accesses (46_mbox_registers_and_signals.md). -/

namespace Sys2Proof.Machine

/-- RD_POP (R200): the value is fixed before the recompute. The four addresses are the same. -/
def execRdPop (_r : Fin 4) (s : State) : Host.Outcome State Fault Refusal :=
  onEvent .mbox (fun s =>
    if s.mbox.rq.isEmpty then recomputeThenReply s.platform.sentinel s
    else recomputeThenReply s.mbox.rq.reg[0] (pullRq s)) s

/-- RD_PEEK (R201). -/
def execRdPeek (s : State) : Host.Outcome State Fault Refusal :=
  onEvent .mbox (fun s => recomputeThenReply s.mbox.rq.reg[0] s) s

/-- RD_SENDER (R202): always 0. -/
def execRdSender (s : State) : Host.Outcome State Fault Refusal :=
  onEvent .mbox (recomputeThenReply 0#32) s

/-- RD_STATUS0 (R203): no recompute. -/
def execRdStatus0 (s : State) : Host.Outcome State Fault Refusal :=
  onEvent .mbox (fun s => reply s.mbox.rq.status s) s

/-- RD_CONFIG (R204). -/
def execRdConfig (s : State) : Host.Outcome State Fault Refusal :=
  onEvent .mbox (fun s => recomputeThenReply (configWord s.mbox) s) s

/-- RD_STATUS1 (R205): no recompute. -/
def execRdStatus1 (s : State) : Host.Outcome State Fault Refusal :=
  onEvent .mbox (fun s => reply s.mbox.wq.status s) s

/-- WR_CONFIG (R206). -/
def execWrConfig (w : Word) (s : State) : Host.Outcome State Fault Refusal :=
  onEvent .mbox (fun s => mboxRecompute { s with mbox := { s.mbox with configIrqEn := configField w } }) s

/-- The push of a word to a channel in range (R207): the pending cell, read once, decides between `wq` and the payload cell. -/
def pushToChannel (w : Word) (s : State) : State :=
  let req := MboxRequest.read (pendingAddr s.platform (pushChannelField w))
  let pending := (nextAnswer req s).value
  unlessStopped .mbox
    (fun s =>
      if pending != 0#32 then pushWq w s
      else memAccess deliverInPush (.write (payloadAddr (pushChannelField w)) w) s)
    (memAccess deliverInPush req s)

/-- WR_PUSH (R207): FULL first, then the channel, then the pending cell; the recompute runs on every path. -/
def execWrPush (r : Fin 4) (w : Word) (s : State) : Host.Outcome State Fault Refusal :=
  onEvent .mbox (fun s =>
    unlessStopped .mbox mboxRecompute
      (if s.mbox.wq.isFull then logDiag .mbox .mboxWqFull (pushOffset r) w s
       else if 8 < pushChannelField w then logDiag .mbox .mboxInvalidChannel (pushOffset r) w s
       else pushToChannel w s)) s

/-- RD_MBOX_BAD (R208): no recompute. -/
def execRdMboxBad (off : Offset) (s : State) : Host.Outcome State Fault Refusal :=
  onEvent .mbox (fun s => reply 0#32 (logDiag .mbox .mboxBadRead off 0#32 s)) s

/-- WR_MBOX_BAD (R209): no recompute. -/
def execWrMboxBad (off : Offset) (w : Word) (s : State) : Host.Outcome State Fault Refusal :=
  onEvent .mbox (logDiag .mbox .mboxBadWrite off w) s

/-- MBOX_BAD_ACCESS (R210, R65). -/
def execMboxBadAccess (kind : BusKind) (_size : AccessSize) (off : Offset) (w : Word) (s : State) : Host.Outcome State Fault Refusal :=
  match kind with
  | .read => onEvent .mbox (fun s => reply 0#32 (logDiag .mbox .badAccess off 0#32 s)) s
  | .write => onEvent .mbox (logDiag .mbox .badAccess off w) s

end Sys2Proof.Machine
end

