-- ==== Sys2Proof/Machine/Resets.lean ====
section
/-! DEFINITION. The reset events (R260, R261) and the reserved keys (R94). -/

namespace Sys2Proof.Machine

/-- The fields RESET_ROUTER clears before its recompute (R260). -/
def clearRouter (r : Router) : Router :=
  { r with
    localIrqBits := Vector.replicate 4 0#4, localRouteCtrl := Vector.replicate 4 0#8, mailboxRouteCtrl := Vector.replicate 4 0#8,
    gpuIrqLevel := false, gpuFiqLevel := false, gpuIrqRoute := 0#2, gpuFiqRoute := 0#2, mboxWord := Vector.replicate 16 0#32 }

/-- The fields RESET_MBOX clears before its recompute (R261). -/
def clearMbox (sentinel : Word) (m : Mbox) : Mbox :=
  { m with
    rq := Queue.empty sentinel, wq := Queue.empty sentinel, channelAvailable := Vector.replicate 9 false,
    configIrqEn := false, updateInProgress := false }

/-- RESET_ROUTER (R260): the log, the fatal flag and the other block stay. -/
def execResetRouter (s : State) : Host.Outcome State Fault Refusal :=
  onEvent .router (updateRouter clearRouter) s

/-- RESET_MBOX (R261): the log, the fatal flag, the mailbox-data region and the other block stay. -/
def execResetMbox (s : State) : Host.Outcome State Fault Refusal :=
  onEvent .mbox (fun s => mboxRecompute { s with mbox := clearMbox s.platform.sentinel s.mbox }) s

/-- RESERVED_KEY (R94): the key spells no event; refused. -/
def execReservedKey (key : Key) (_s : State) : Host.Outcome State Fault Refusal := .refused (.reservedKey key)

end Sys2Proof.Machine
end

