-- ==== Sys2Proof/Machine/RouterRegs.lean ====
section
/-! DEFINITION. The router's register accesses (41_router_registers.md). -/

namespace Sys2Proof.Machine

/-- RD_GPU_ROUTE (R140). -/
def execRdGpuRoute (s : State) : Host.Outcome State Fault Refusal :=
  onEvent .router (fun s => reply (gpuRouteWord s.router) s) s

/-- WR_GPU_ROUTE (R141). -/
def execWrGpuRoute (w : Word) (s : State) : Host.Outcome State Fault Refusal :=
  onEvent .router (updateRouter fun r => { r with gpuIrqRoute := gpuIrqField w, gpuFiqRoute := gpuFiqField w }) s

/-- RD_LOCAL_ROUTE_CTRL (R142). -/
def execRdLocalRouteCtrl (c : Core) (s : State) : Host.Outcome State Fault Refusal :=
  onEvent .router (fun s => reply (s.router.localRouteCtrl[c].setWidth 32) s) s

/-- WR_LOCAL_ROUTE_CTRL (R143). -/
def execWrLocalRouteCtrl (c : Core) (w : Word) (s : State) : Host.Outcome State Fault Refusal :=
  onEvent .router (updateRouter fun r => { r with localRouteCtrl := r.localRouteCtrl.set c (ctrlField w) }) s

/-- RD_MBOX_ROUTE_CTRL (R144). -/
def execRdMboxRouteCtrl (c : Core) (s : State) : Host.Outcome State Fault Refusal :=
  onEvent .router (fun s => reply (s.router.mailboxRouteCtrl[c].setWidth 32) s) s

/-- WR_MBOX_ROUTE_CTRL (R145). -/
def execWrMboxRouteCtrl (c : Core) (w : Word) (s : State) : Host.Outcome State Fault Refusal :=
  onEvent .router (updateRouter fun r => { r with mailboxRouteCtrl := r.mailboxRouteCtrl.set c (ctrlField w) }) s

/-- RD_IRQ_SOURCE (R146). -/
def execRdIrqSource (c : Core) (s : State) : Host.Outcome State Fault Refusal :=
  onEvent .router (fun s => reply (s.router.irqSource[c].setWidth 32) s) s

/-- RD_FIQ_SOURCE (R147). -/
def execRdFiqSource (c : Core) (s : State) : Host.Outcome State Fault Refusal :=
  onEvent .router (fun s => reply (s.router.fiqSource[c].setWidth 32) s) s

/-- WR_MBOX_SET (R148). -/
def execWrMboxSet (m : MboxIndex) (w : Word) (s : State) : Host.Outcome State Fault Refusal :=
  onEvent .router (updateRouter fun r => { r with mboxWord := r.mboxWord.set m (r.mboxWord[m] ||| w) }) s

/-- RD_MBOX (R149). -/
def execRdMbox (m : MboxIndex) (s : State) : Host.Outcome State Fault Refusal :=
  onEvent .router (fun s => reply s.router.mboxWord[m] s) s

/-- WR_MBOX_CLR (R150). -/
def execWrMboxClr (m : MboxIndex) (w : Word) (s : State) : Host.Outcome State Fault Refusal :=
  onEvent .router (updateRouter fun r => { r with mboxWord := r.mboxWord.set m (r.mboxWord[m] &&& ~~~w) }) s

/-- RD_ROUTER_BAD (R151). -/
def execRdRouterBad (off : Offset) (s : State) : Host.Outcome State Fault Refusal :=
  onEvent .router (fun s => reply 0#32 (logDiag .router .routerBadRead off 0#32 s)) s

/-- WR_ROUTER_BAD (R152): the recompute runs. -/
def execWrRouterBad (off : Offset) (w : Word) (s : State) : Host.Outcome State Fault Refusal :=
  onEvent .router (fun s => updateRouter id (logDiag .router .routerBadWrite off w s)) s

/-- ROUTER_BAD_ACCESS (R153, R65). -/
def execRouterBadAccess (kind : BusKind) (_size : AccessSize) (off : Offset) (w : Word) (s : State) : Host.Outcome State Fault Refusal :=
  match kind with
  | .read => onEvent .router (fun s => reply 0#32 (logDiag .router .badAccess off 0#32 s)) s
  | .write => onEvent .router (logDiag .router .badAccess off w) s

end Sys2Proof.Machine
end

