-- ==== Sys2Proof/Machine/Signals.lean ====
section
/-! DEFINITION. The inbound signal events at top level (R125 to R127, R211). -/

namespace Sys2Proof.Machine

/-- SIG_LOCAL_IRQ (R125). -/
def execSigLocalIrq (c : Fin 16) (i : Fin 4) (level : Bool) (s : State) : Host.Outcome State Fault Refusal :=
  onEvent .router (sigLocalIrq c i level) s

/-- SIG_GPU_IRQ (R126). -/
def execSigGpuIrq (level : Bool) (s : State) : Host.Outcome State Fault Refusal :=
  onEvent .router (sigGpuIrq level) s

/-- SIG_GPU_FIQ (R127). -/
def execSigGpuFiq (level : Bool) (s : State) : Host.Outcome State Fault Refusal :=
  onEvent .router (sigGpuFiq level) s

/-- SIG_CHANNEL_AVAILABLE (R211). -/
def execSigChannelAvailable (ch : Fin 16) (level : Bool) (s : State) : Host.Outcome State Fault Refusal :=
  onEvent .mbox (sigChannel mboxRecompute ch level) s

end Sys2Proof.Machine
end

