-- ==== Sys2Proof/Machine/Dispatch.lean ====
section
/-! DEFINITION. One arm per instruction: the call of its meaning. -/

namespace Sys2Proof.Machine

def exec (i : Instr) (s : State) : Host.Outcome State Fault Refusal :=
  match i with
  | .rdGpuRoute => Sys2Proof.Machine.execRdGpuRoute s
  | .wrGpuRoute w => Sys2Proof.Machine.execWrGpuRoute w s
  | .rdLocalRouteCtrl c => Sys2Proof.Machine.execRdLocalRouteCtrl c s
  | .wrLocalRouteCtrl c w => Sys2Proof.Machine.execWrLocalRouteCtrl c w s
  | .rdMboxRouteCtrl c => Sys2Proof.Machine.execRdMboxRouteCtrl c s
  | .wrMboxRouteCtrl c w => Sys2Proof.Machine.execWrMboxRouteCtrl c w s
  | .rdIrqSource c => Sys2Proof.Machine.execRdIrqSource c s
  | .rdFiqSource c => Sys2Proof.Machine.execRdFiqSource c s
  | .wrMboxSet m w => Sys2Proof.Machine.execWrMboxSet m w s
  | .rdMbox m => Sys2Proof.Machine.execRdMbox m s
  | .wrMboxClr m w => Sys2Proof.Machine.execWrMboxClr m w s
  | .rdRouterBad off => Sys2Proof.Machine.execRdRouterBad off s
  | .wrRouterBad off w => Sys2Proof.Machine.execWrRouterBad off w s
  | .routerBadAccess kind size off w => Sys2Proof.Machine.execRouterBadAccess kind size off w s
  | .rdPop r => Sys2Proof.Machine.execRdPop r s
  | .rdPeek => Sys2Proof.Machine.execRdPeek s
  | .rdSender => Sys2Proof.Machine.execRdSender s
  | .rdStatus0 => Sys2Proof.Machine.execRdStatus0 s
  | .rdConfig => Sys2Proof.Machine.execRdConfig s
  | .rdStatus1 => Sys2Proof.Machine.execRdStatus1 s
  | .wrConfig w => Sys2Proof.Machine.execWrConfig w s
  | .wrPush r w => Sys2Proof.Machine.execWrPush r w s
  | .rdMboxBad off => Sys2Proof.Machine.execRdMboxBad off s
  | .wrMboxBad off w => Sys2Proof.Machine.execWrMboxBad off w s
  | .mboxBadAccess kind size off w => Sys2Proof.Machine.execMboxBadAccess kind size off w s
  | .sigLocalIrq c i' level => Sys2Proof.Machine.execSigLocalIrq c i' level s
  | .sigGpuIrq level => Sys2Proof.Machine.execSigGpuIrq level s
  | .sigGpuFiq level => Sys2Proof.Machine.execSigGpuFiq level s
  | .sigChannelAvailable ch level => Sys2Proof.Machine.execSigChannelAvailable ch level s
  | .resetRouter => Sys2Proof.Machine.execResetRouter s
  | .resetMbox => Sys2Proof.Machine.execResetMbox s
  | .reservedKey key => Sys2Proof.Machine.execReservedKey key s

end Sys2Proof.Machine
end

