-- ==== Sys2Proof/Machine/Step.lean ====
section
/-! DEFINITION. One step: the next event the environment delivers, processed to completion (R56, R70). -/

namespace Sys2Proof.Machine

/-- One step. With no event waiting the machine stays as it is, without limit (R245; log entry 4). -/
def step (s : State) : Host.Outcome State Fault Refusal :=
  match s.inbox with
  | [] => .next s
  | e :: rest => exec (decode e) { s with inbox := rest }

/-- The event that `w` spells is the next one the environment delivers. -/
def State.withFetchWord (s : State) (nbits w : Nat) : State := { s with inbox := eventOfWord nbits w :: s.inbox }

end Sys2Proof.Machine
end

