-- ==== Sys2Proof/Machine/Bus.lean ====
section
/-! DEFINITION. The bus side and the lines: which block and offset a bus address reaches (R61, R62), the event a bus access becomes (R90, R91), and the outbound lines with what they are wired to (R29, R37, R123). -/

namespace Sys2Proof.Machine

/-- The router offset of a bus address, if the router window holds it: no aliasing (R61). -/
def routerOffset (p : Platform) (a : Nat) : Option Nat :=
  if p.routerBase ≤ a ∧ a < p.routerBase + Config.routerWindow then some (a - p.routerBase) else none

/-- The mailbox-block offset of a bus address before masking, if the mailbox window holds it (R62). -/
def mboxRawOffset (p : Platform) (a : Nat) : Option Nat :=
  if p.mboxBase ≤ a ∧ a < p.mboxBase + p.mboxWindowSize then some (a - p.mboxBase) else none

/-- The mailbox-block offset masked to its low 8 bits (R62; R4 `MBOX_OFFSET_MASK`). -/
def mboxOffset (p : Platform) (a : Nat) : Option Nat := (mboxRawOffset p a).map (· % 0x100)

/-- The event a block receives for a bus access at a window offset; a read carries no data (R91). -/
def accessEvent (kind : BusKind) (blk : Block) (size : AccessSize) (off : Nat) (w : Word) : Event :=
  ⟨busKey kind blk size (BitVec.ofNat 8 off), match kind with | .read => 0#32 | .write => w⟩

/-- The event the router receives for a bus access, if its window holds the address. -/
def routerBusEvent (p : Platform) (kind : BusKind) (size : AccessSize) (a : Nat) (w : Word) : Option Event :=
  (routerOffset p a).map fun off => accessEvent kind .router size off w

/-- The event the mailbox block receives for a bus access, if its window holds the address. -/
def mboxBusEvent (p : Platform) (kind : BusKind) (size : AccessSize) (a : Nat) (w : Word) : Option Event :=
  (mboxOffset p a).map fun off => accessEvent kind .mbox size off w

/-- The outbound lines (R29, R37). -/
inductive Line where
  | irq (c : Core)
  | fiq (c : Core)
  | mboxIrq
  deriving DecidableEq, Repr

/-- What a line is wired to: a core's IRQ or FIQ input, or the sink the platform names (R29, R37). -/
inductive LineSink where
  | coreIrq (c : Core)
  | coreFiq (c : Core)
  | platformSink (name : Nat)
  deriving DecidableEq, Repr

/-- The line's destination (R29; R37 `MBOX_IRQ_SINK`). -/
def lineSink (p : Platform) : Line → LineSink
  | .irq c => .coreIrq c
  | .fiq c => .coreFiq c
  | .mboxIrq => .platformSink p.mboxIrqSink

/-- The line's level, 1 asserted (R29, R37). -/
def lineLevel (s : State) : Line → Bool
  | .irq c => s.router.irqOut[c]
  | .fiq c => s.router.fiqOut[c]
  | .mboxIrq => s.mbox.mboxIrqOut

/-- The outbound lines in a fixed order. -/
def allLines : List Line := allCores.map .irq ++ allCores.map .fiq ++ [.mboxIrq]

/-- What an observer of the lines sees of a step from `s` to `t`: the lines whose level changed, with the new level. Driving a line to the level it has is no event (R123). DESIGN CHOICE: nor is a change inside the step that is undone before its end (log entry 26). -/
def lineEvents (s t : State) : List (Line × Bool) :=
  (allLines.filter fun l => lineLevel s l != lineLevel t l).map fun l => (l, lineLevel t l)

end Sys2Proof.Machine
end

