-- ==== Sys2Proof/Machine/Snapshot.lean ====
section
/-! DEFINITION. Save and restore (R57): a snapshot of the items of the tables of R20 and R30, and the fatal outcome of restoring one that violates an invariant (R233 FATAL_STATE_INVARIANT). The environment does it; it is no event (R90). -/

namespace Sys2Proof.Machine

/-- The router's part of a snapshot: the items of R20, the two routing indices as the numbers the image holds. -/
structure RouterImage where
  localIrqBits : Vector (BitVec 4) 4
  gpuIrqLevel : Bool
  gpuFiqLevel : Bool
  gpuIrqRoute : Nat
  gpuFiqRoute : Nat
  localRouteCtrl : Vector (BitVec 8) 4
  mailboxRouteCtrl : Vector (BitVec 8) 4
  mboxWord : Vector Word 16
  irqSource : Vector Snap 4
  fiqSource : Vector Snap 4
  irqOut : Vector Bool 4
  fiqOut : Vector Bool 4
  deriving DecidableEq, Repr

/-- A snapshot: every item of the tables of R20 and R30 (R57). DESIGN CHOICE: the log and the fatal flags, which these rules name after their tables, are not in it (log entry 25). -/
structure Snapshot where
  router : RouterImage
  mbox : Mbox
  deriving DecidableEq, Repr

/-- The image of the router's state. -/
def saveRouter (r : Router) : RouterImage where
  localIrqBits := r.localIrqBits
  gpuIrqLevel := r.gpuIrqLevel
  gpuFiqLevel := r.gpuFiqLevel
  gpuIrqRoute := r.gpuIrqRoute.toNat
  gpuFiqRoute := r.gpuFiqRoute.toNat
  localRouteCtrl := r.localRouteCtrl
  mailboxRouteCtrl := r.mailboxRouteCtrl
  mboxWord := r.mboxWord
  irqSource := r.irqSource
  fiqSource := r.fiqSource
  irqOut := r.irqOut
  fiqOut := r.fiqOut

/-- Saving a snapshot (R57). -/
def saveSnapshot (s : State) : Snapshot := ⟨saveRouter s.router, s.mbox⟩

/-- The router state an image holds, its routing indices cut to two bits. -/
def loadRouter (g : RouterImage) : Router where
  localIrqBits := g.localIrqBits
  gpuIrqLevel := g.gpuIrqLevel
  gpuFiqLevel := g.gpuFiqLevel
  gpuIrqRoute := BitVec.ofNat 2 g.gpuIrqRoute
  gpuFiqRoute := BitVec.ofNat 2 g.gpuFiqRoute
  localRouteCtrl := g.localRouteCtrl
  mailboxRouteCtrl := g.mailboxRouteCtrl
  mboxWord := g.mboxWord
  irqSource := g.irqSource
  fiqSource := g.fiqSource
  irqOut := g.irqOut
  fiqOut := g.fiqOut

/-- The invariant of R23 holds of an image: its routing indices are 0..3. -/
def RouterImage.routesValid (g : RouterImage) : Bool := Nat.blt g.gpuIrqRoute 4 && Nat.blt g.gpuFiqRoute 4

/-- The invariants of R23, R28 and R29 hold of an image: routing indices 0..3, snapshots and lines as RouterRecompute computes them. -/
def RouterImage.valid (g : RouterImage) : Bool := g.routesValid && routerRecompute (loadRouter g) == loadRouter g

/-- The invariant of R31: at most 32 entries, and every free slot holds the sentinel. -/
def Queue.valid (sentinel : Word) (q : Queue) : Bool :=
  Nat.ble q.count Config.qcap && (List.range Config.qcap).all fun n => Nat.blt n q.count || slotAt sentinel q.reg n == sentinel

/-- The invariants of R31 hold of both queues. DESIGN CHOICE: a guard of 1 and a line against R37, which R57 does not list, violate nothing (log entry 24). -/
def mboxValid (sentinel : Word) (m : Mbox) : Bool := m.rq.valid sentinel && m.wq.valid sentinel

/-- One block's part of a restore (R57): an image that violates an invariant stops the block and loads nothing (R233; log entry 8), and a stopped block stays as it is (R39). -/
def restoreBlock (b : Block) (valid : Bool) (load : State → State) (s : State) : State :=
  unlessStopped b (fun s => if valid then load s else raiseFatal b .stateInvariant s) s

/-- Restoring the router (R57). -/
def restoreRouter (g : RouterImage) (s : State) : State :=
  restoreBlock .router g.valid (fun s => { s with router := loadRouter g }) s

/-- Restoring the mailbox block (R57), the guard and the line as the image holds them (log entry 24). -/
def restoreMbox (m : Mbox) (s : State) : State :=
  restoreBlock .mbox (mboxValid s.platform.sentinel m) (fun s => { s with mbox := m }) s

/-- Restoring a snapshot (R57), block by block. -/
def restoreSnapshot (g : Snapshot) (s : State) : State := restoreMbox g.mbox (restoreRouter g.router s)

/-- Restoring the router with its snapshots and lines recomputed (R57): the image's own are not looked at, so R23 alone can be violated. -/
def restoreRouterRecomputed (g : RouterImage) (s : State) : State :=
  restoreBlock .router g.routesValid (fun s => { s with router := routerRecompute (loadRouter g) }) s

/-- Restoring the mailbox block with its line recomputed (R57, R177), the guard as the image holds it (log entry 24). -/
def restoreMboxRecomputed (m : Mbox) (s : State) : State :=
  restoreBlock .mbox (mboxValid s.platform.sentinel m) (fun s => driveMboxIrq { s with mbox := m }) s

/-- Restoring a snapshot with `irq_source`, `fiq_source` and the lines recomputed from the other items (R57). -/
def restoreRecomputed (g : Snapshot) (s : State) : State := restoreMboxRecomputed g.mbox (restoreRouterRecomputed g.router s)

end Sys2Proof.Machine
end

