-- ==== Sys2Proof/Safety.lean ====
section
/-! DEFINITION. The terms of claims: the invariants between events (R28, R29, R31, R36, R177), a failed run (R233), a wired environment (R233), and the classes of events. -/

namespace Sys2Proof.Machine

/-- `irq_source`, `fiq_source` and the lines are what RouterRecompute computes from the current state (R28, R29). -/
abbrev Router.Fresh (r : Router) : Prop := routerRecompute r = r

/-- The invariant of R31 for one queue. -/
abbrev Queue.Ok (sentinel : Word) (q : Queue) : Prop :=
  q.count ≤ Config.qcap ∧ ∀ n : Fin 32, q.count ≤ n.val → q.reg[n] = sentinel

/-- The guard is 0 and the line is as R177 gives it, unless the block stopped inside an event. -/
abbrev MboxSettled (s : State) : Prop :=
  s.mboxFatal = none → s.mbox.updateInProgress = false ∧ s.mbox.mboxIrqOut = s.mbox.irqLevel

/-- The invariant between events. -/
abbrev Inv (s : State) : Prop :=
  s.router.Fresh ∧ s.mbox.rq.Ok s.platform.sentinel ∧ s.mbox.wq.Ok s.platform.sentinel ∧ MboxSettled s

/-- A fatal flag is set: the run has failed (R233). -/
abbrev Failed (s : State) : Prop := s.routerFatal ≠ none ∨ s.mboxFatal ≠ none

/-- A flag that is clear, or set by an out-of-range signal index. -/
abbrev OnlySignalFatal (f : Option FatalKind) : Prop := f = none ∨ f = some .signalIndex

/-- A signal whose index is in range (R96). -/
def signalInRange : Signal → Bool
  | .localIrq c _ _ => Nat.blt c.val 4
  | .gpuIrq _ => true
  | .gpuFiq _ => true
  | .channel ch _ => Nat.blt ch.val 9

/-- Every answer listed delivers only signals whose indices are in range: a platform without a wiring fault. -/
abbrev WiredAnswers (s : State) : Prop := ∀ a ∈ s.envAnswers, ∀ sig ∈ a.nested, signalInRange sig = true

/-- Enough answers are listed for every access event `i` can make, so that no free value of the environment enters: a recompute reads at most 297 cells (R176), and a push makes two accesses and can run a recompute for each signal delivered in them (R207, R211). -/
abbrev AnswersSuffice (i : Instr) (s : State) : Prop :=
  297 ≤ s.envAnswers.length ∧
  ((∃ r w, i = .wrPush r w) →
    ∃ n, (∀ a ∈ s.envAnswers, a.nested.length ≤ n) ∧ 2 + 297 * (2 * n + 1) ≤ s.envAnswers.length)

/-- The events the router takes: its register accesses, its signals and its reset. -/
def isRouterEvent : Instr → Bool
  | .rdGpuRoute | .wrGpuRoute _ | .rdLocalRouteCtrl _ | .wrLocalRouteCtrl _ _ | .rdMboxRouteCtrl _
  | .wrMboxRouteCtrl _ _ | .rdIrqSource _ | .rdFiqSource _ | .wrMboxSet _ _ | .rdMbox _ | .wrMboxClr _ _
  | .rdRouterBad _ | .wrRouterBad _ _ | .routerBadAccess _ _ _ _
  | .sigLocalIrq _ _ _ | .sigGpuIrq _ | .sigGpuFiq _ | .resetRouter => true
  | .rdPop _ | .rdPeek | .rdSender | .rdStatus0 | .rdConfig | .rdStatus1 | .wrConfig _ | .wrPush _ _
  | .rdMboxBad _ | .wrMboxBad _ _ | .mboxBadAccess _ _ _ _ | .sigChannelAvailable _ _ | .resetMbox
  | .reservedKey _ => false

/-- The block an event belongs to; a reserved key belongs to none. -/
def eventBlock : Instr → Option Block
  | .reservedKey _ => none
  | i => if isRouterEvent i then some .router else some .mbox

/-- The signal events (R90). -/
def isSignal : Instr → Bool
  | .sigLocalIrq _ _ _ | .sigGpuIrq _ | .sigGpuFiq _ | .sigChannelAvailable _ _ => true
  | .rdGpuRoute | .wrGpuRoute _ | .rdLocalRouteCtrl _ | .wrLocalRouteCtrl _ _ | .rdMboxRouteCtrl _
  | .wrMboxRouteCtrl _ _ | .rdIrqSource _ | .rdFiqSource _ | .wrMboxSet _ _ | .rdMbox _ | .wrMboxClr _ _
  | .rdRouterBad _ | .wrRouterBad _ _ | .routerBadAccess _ _ _ _ | .resetRouter
  | .rdPop _ | .rdPeek | .rdSender | .rdStatus0 | .rdConfig | .rdStatus1 | .wrConfig _ | .wrPush _ _
  | .rdMboxBad _ | .wrMboxBad _ _ | .mboxBadAccess _ _ _ _ | .resetMbox | .reservedKey _ => false

/-- The reads of a router register that has a read meaning (R97). -/
abbrev IsRouterRegisterRead (i : Instr) : Prop :=
  i = .rdGpuRoute ∨ (∃ c, i = .rdLocalRouteCtrl c ∨ i = .rdMboxRouteCtrl c ∨ i = .rdIrqSource c ∨ i = .rdFiqSource c) ∨ ∃ m, i = .rdMbox m

/-- A bus read, which returns a value (R90). -/
def isRead : Instr → Bool
  | .rdGpuRoute | .rdLocalRouteCtrl _ | .rdMboxRouteCtrl _ | .rdIrqSource _ | .rdFiqSource _ | .rdMbox _ | .rdRouterBad _
  | .routerBadAccess .read _ _ _ | .rdPop _ | .rdPeek | .rdSender | .rdStatus0 | .rdConfig | .rdStatus1 | .rdMboxBad _
  | .mboxBadAccess .read _ _ _ => true
  | .wrGpuRoute _ | .wrLocalRouteCtrl _ _ | .wrMboxRouteCtrl _ _ | .wrMboxSet _ _ | .wrMboxClr _ _ | .wrRouterBad _ _
  | .routerBadAccess .write _ _ _ | .wrConfig _ | .wrPush _ _ | .wrMboxBad _ _ | .mboxBadAccess .write _ _ _
  | .sigLocalIrq _ _ _ | .sigGpuIrq _ | .sigGpuFiq _ | .sigChannelAvailable _ _ | .resetRouter | .resetMbox
  | .reservedKey _ => false

/-- No channel is available, so a recompute reads no payload cell (R173). -/
abbrev NoChannel (s : State) : Prop := ∀ ch : Channel, s.mbox.channelAvailable[ch] = false

/-- The mailbox-data region's byte address of an access. -/
def accessAddr : MboxAccess → Nat
  | .read addr _ => addr
  | .write addr _ => addr

/-- The word an access moved. -/
def accessValue : MboxAccess → Word
  | .read _ v => v
  | .write _ v => v

/-- The access is the read of a channel's payload cell (R63). -/
abbrev IsPayloadRead (x : MboxAccess) : Prop := ∃ (ch : Channel) (v : Word), x = .read (payloadAddr ch.val) v

/-- The router's inputs: its state with every snapshot and line blanked. RouterRecompute writes only what is blanked here (R120). -/
def Router.inputs (r : Router) : Router :=
  { clearSources r with irqOut := Vector.replicate 4 false, fiqOut := Vector.replicate 4 false }

/-- Every snapshot and line is as the closed form of R120 gives it for the router's inputs. -/
abbrev OutputsCurrent (r : Router) : Prop :=
  ∀ c : Core, r.irqSource[c] = r.irqClosed c ∧ r.fiqSource[c] = r.fiqClosed c ∧
    r.irqOut[c] = (r.irqClosed c != 0#12) ∧ r.fiqOut[c] = (r.fiqClosed c != 0#12)

/-- From `s` to `t` the router's inputs become those of `r`, its outputs are current, and nothing else changes: the mailbox block, the log, the fatal flags and the environment's data stay, and no value is returned. -/
abbrev RouterBecomes (r : Router) (s t : State) : Prop :=
  t.router.inputs = r.inputs ∧ OutputsCurrent t.router ∧ t = { s with router := t.router, rdata := none }

/-- Channel `ch` is available and no lower one is. -/
abbrev LowestAvailable (s : State) (ch : Channel) : Prop :=
  s.mbox.channelAvailable[ch] = true ∧ ∀ b : Channel, b.val < ch.val → s.mbox.channelAvailable[b] = false

/-- `t` is what MboxRecompute makes of `u`, but for the value a read returns: it read payload cells only, with room in the host-read queue the lowest available channel's cell first, and the queue holds what it held in `u` and after it, in order, the words those reads returned that are not the sentinel. -/
abbrev Drained (u t : State) : Prop :=
  t = { mboxRecompute u with rdata := t.rdata } ∧
  ∃ reads, t.mboxHistory = u.mboxHistory ++ reads ∧ (∀ x ∈ reads, IsPayloadRead x) ∧
    t.mbox.rq.entries = u.mbox.rq.entries ++ (reads.map accessValue).filter (· != u.platform.sentinel) ∧
    (u.mbox.rq.count ≠ 32 → ∀ ch : Channel, LowestAvailable u ch → ∃ v rest, reads = .read (payloadAddr ch.val) v :: rest)

/-- The mailbox block after an event during which no channel was available: the host-read queue is `q`, the guard is 0 and the line is current; the rest of the block is as in `m`. -/
def settledMbox (q : Queue) (m : Mbox) : Mbox :=
  { m with rq := q, updateInProgress := false, mboxIrqOut := q.count != 0 && m.configIrqEn }

/-- The router signal on one line (R92): a local line of a core, or one of the two GPU lines. -/
inductive RouterLine where
  | localLine (c i : Core)
  | gpuIrqLine
  | gpuFiqLine
  deriving DecidableEq, Repr

/-- The event that brings a router line to a level. -/
def RouterLine.event (n : RouterLine) (l : Bool) : Instr :=
  match n with
  | .localLine c i => .sigLocalIrq ⟨c.val, by omega⟩ i l
  | .gpuIrqLine => .sigGpuIrq l
  | .gpuFiqLine => .sigGpuFiq l

end Sys2Proof.Machine
end

