-- ==== Sys2Proof/Certificates/Slice0/Obligations.lean ====
section
/-! DEFINITION. The statements for the provers. -/

open Sys2Proof Sys2Proof.Machine

/-! ## Encoding and the step -/

/-- Every well-formed instruction is decoded from its own event, with every operand at every value (R91 to R98). -/
def Obligations.DecodeOfEncode : Prop :=
  ∀ i : Instr, i.wf = true → decode (encode i) = i

/-- Whatever the event, the decoder gives a well-formed instruction whose own key is the event's key: no two keys share a meaning and no bit of a key is dropped (R91 to R98). -/
def Obligations.DecodedInstrKeepsKey : Prop :=
  ∀ e : Event, (decode e).wf = true ∧ (encode (decode e)).key = e.key

/-- No key fits two rows of the opcode table. -/
def Obligations.OpcodeRowsDisjoint : Prop :=
  ∀ k : Key, ∀ a ∈ opcodeTable, ∀ b ∈ opcodeTable, rowMatches k a = true → rowMatches k b = true → a = b

/-- Every event's key fits a row of the opcode table that has the mnemonic of the decoded instruction. -/
def Obligations.DecodeFollowsOpcodeTable : Prop :=
  ∀ e : Event, ∃ row ∈ opcodeTable, rowMatches e.key row = true ∧ row.mnemonic = (decode e).mnemonic

/-- The keys of the decode table of 95_test_vectors.md, written out. -/
def Obligations.DecodeOfWrittenOutKeys : Prop :=
  ∀ w : Word,
    decode ⟨0x100C#16, w⟩ = .rdGpuRoute ∧ decode ⟨0x5048#16, w⟩ = .wrLocalRouteCtrl 2 w ∧
    decode ⟨0x107C#16, w⟩ = .rdFiqSource 3 ∧ decode ⟨0x50BC#16, w⟩ = .wrMboxSet 15 w ∧
    decode ⟨0x10C4#16, w⟩ = .rdMbox 1 ∧ decode ⟨0x1080#16, w⟩ = .rdRouterBad 0x80#8 ∧
    decode ⟨0x5064#16, w⟩ = .wrRouterBad 0x64#8 w ∧ decode ⟨0x080C#16, w⟩ = .routerBadAccess .read .two 0x0C#8 0#32 ∧
    decode ⟨0x500D#16, w⟩ = .routerBadAccess .write .four 0x0D#8 w ∧ decode ⟨0x308C#16, w⟩ = .rdPop 3 ∧
    decode ⟨0x30A0#16, w⟩ = .rdMboxBad 0xA0#8 ∧ decode ⟨0x7080#16, w⟩ = .wrMboxBad 0x80#8 w ∧
    decode ⟨0x2880#16, w⟩ = .mboxBadAccess .read .two 0x80#8 0#32 ∧ decode ⟨0x80E1#16, w⟩ = .sigLocalIrq 3 2 true ∧
    decode ⟨0x8101#16, w⟩ = .sigLocalIrq 4 0 true ∧ decode ⟨0x8E41#16, w⟩ = .sigChannelAvailable 9 true ∧
    decode ⟨0xC000#16, w⟩ = .resetRouter ∧ decode ⟨0xE000#16, w⟩ = .resetMbox

/-- A key decodes to RESERVED_KEY exactly when R94 reserves it, and the machine then has no step. That the decoder names such a key and the step is what refuses it is the model's choice (log entry 1). -/
def Obligations.ReservedKeysAreRefused : Prop :=
  ∀ (e : Event), (decode e = .reservedKey e.key ↔ isReservedKey e.key = true) ∧
    ∀ (s : State) (rest : List Event), isReservedKey e.key = true → s.inbox = e :: rest →
      step s = .refused (.reservedKey e.key)

/-- A step takes the first waiting event and runs the instruction its key decodes to on the state without that event; with no event waiting the machine stays as it is (the model's choice, log entry 4). -/
def Obligations.StepRunsDecodedEvent : Prop :=
  (∀ (s : State) (e : Event) (rest : List Event), s.inbox = e :: rest → step s = exec (decode e) { s with inbox := rest }) ∧
  ∀ s : State, s.inbox = [] → step s = .next s

/-- An event of a block that has stopped has no step, whatever the event, reset included; every event of a block that has not stopped runs to completion. That the missing step is a fault, and that an event which itself stops its block answers a next state, is the model's choice (log entry 9). -/
def Obligations.EventRunsUnlessBlockStopped : Prop :=
  ∀ (i : Instr) (s : State) (b : Block), eventBlock i = some b →
    (stopped b s = true → exec i s = .fault (.blockStopped b)) ∧ (stopped b s = false → ∃ t, exec i s = .next t)

/-! ## Reset and the invariant -/

/-- The state right after reset meets the invariant. -/
def Obligations.ResetMeetsInvariant : Prop := Inv State.reset

/-- Right after construction, whatever the platform: router registers read 0, both status registers read EMPTY, CONFIG and SENDER read 0, PEEK and POP read the sentinel, and every line is low. -/
def Obligations.RegistersReadAfterReset : Prop :=
  ∀ p : Platform,
    (∀ i, (IsRouterRegisterRead i ∨ i = .rdConfig ∨ i = .rdSender) →
      exec i (State.construct p) = .next { State.construct p with rdata := some 0#32 }) ∧
    (∀ i, (i = .rdStatus0 ∨ i = .rdStatus1) →
      exec i (State.construct p) = .next { State.construct p with rdata := some 0x40000000#32 }) ∧
    (∀ i, (i = .rdPeek ∨ ∃ r, i = .rdPop r) →
      exec i (State.construct p) = .next { State.construct p with rdata := some p.sentinel }) ∧
    ∀ l : Line, lineLevel (State.construct p) l = false

/-- Every step keeps the invariant: snapshots and lines never stale, queue slots past the count hold the sentinel, the guard 0 and the mailbox line current between events. -/
def Obligations.StepKeepsInvariant : Prop :=
  ∀ s t : State, Inv s → step s = .next t → Inv t

/-- A step only adds to the log and to the history, uses up waiting events and answers from the front, never clears a fatal flag and never changes a parameter. The inbox, the listed answers, the history and the parameters are the model's own records (log entries 2 to 5), and so is the kind kept with a fatal flag (log entry 11). -/
def Obligations.StepOnlyExtendsRecords : Prop :=
  ∀ s t : State, step s = .next t →
    s.diagLog <+: t.diagLog ∧ s.mboxHistory <+: t.mboxHistory ∧ t.inbox = s.inbox.tail ∧ t.envAnswers <:+ s.envAnswers ∧
    t.platform = s.platform ∧ (s.routerFatal ≠ none → t.routerFatal = s.routerFatal) ∧
    (s.mboxFatal ≠ none → t.mboxFatal = s.mboxFatal)

/-! ## The router -/

/-- The six steps of RouterRecompute give the closed form, drive each line to the OR of its snapshot, and change no input. -/
def Obligations.RecomputeIsClosedForm : Prop :=
  ∀ (r : Router) (c : Core),
    (routerRecompute r).irqSource[c] = r.irqClosed c ∧ (routerRecompute r).fiqSource[c] = r.fiqClosed c ∧
    (routerRecompute r).irqOut[c] = (r.irqClosed c != 0#12) ∧ (routerRecompute r).fiqOut[c] = (r.fiqClosed c != 0#12) ∧
    (routerRecompute r).inputs = r.inputs

/-- A local or mailbox source that is active and enabled for both is set in the FIQ snapshot only. -/
def Obligations.FiqTakesPrecedence : Prop :=
  ∀ (r : Router) (c i : Core),
    (r.localIrqBits[c].getLsbD i.val = true → r.localRouteCtrl[c].getLsbD i.val = true →
      r.localRouteCtrl[c].getLsbD (4 + i.val) = true →
      (routerRecompute r).fiqSource[c].getLsbD i.val = true ∧ (routerRecompute r).irqSource[c].getLsbD i.val = false) ∧
    (r.mboxWord[mboxIndex c i] ≠ 0#32 → r.mailboxRouteCtrl[c].getLsbD i.val = true →
      r.mailboxRouteCtrl[c].getLsbD (4 + i.val) = true →
      (routerRecompute r).fiqSource[c].getLsbD (4 + i.val) = true ∧ (routerRecompute r).irqSource[c].getLsbD (4 + i.val) = false)

/-- The GPU lines reach exactly the core their route names, IRQ as IRQ and FIQ as FIQ, whatever the route-control registers hold; on one core both may be set and both lines are then asserted. -/
def Obligations.GpuLinesFollowRoutesUnmasked : Prop :=
  ∀ (r : Router) (c : Core),
    ((routerRecompute r).irqSource[c].getLsbD 8 = true ↔ r.gpuIrqLevel = true ∧ c.val = r.gpuIrqRoute.toNat) ∧
    ((routerRecompute r).fiqSource[c].getLsbD 8 = true ↔ r.gpuFiqLevel = true ∧ c.val = r.gpuFiqRoute.toNat) ∧
    (r.gpuIrqLevel = true → r.gpuFiqLevel = true → r.gpuIrqRoute = r.gpuFiqRoute → c.val = r.gpuIrqRoute.toNat →
      (routerRecompute r).irqSource[c].getLsbD 8 = true ∧ (routerRecompute r).fiqSource[c].getLsbD 8 = true ∧
      (routerRecompute r).irqOut[c] = true ∧ (routerRecompute r).fiqOut[c] = true)

/-- Snapshot bits 9 to 11 are 0, and no source bit 0 to 7 is set in both snapshots of a core. -/
def Obligations.SnapshotLayout : Prop :=
  ∀ (r : Router) (c : Core) (n : Nat),
    (9 ≤ n → (routerRecompute r).irqSource[c].getLsbD n = false ∧ (routerRecompute r).fiqSource[c].getLsbD n = false) ∧
    (n < 8 → ¬((routerRecompute r).irqSource[c].getLsbD n = true ∧ (routerRecompute r).fiqSource[c].getLsbD n = true))

/-- `mailbox_bits[c]` has bit `j` set exactly when `mbox_word[4*c + j]` is not 0. -/
def Obligations.MailboxBitsAreNonzeroWords : Prop :=
  ∀ (r : Router) (c j : Core), (r.mailboxBits c).getLsbD j.val = true ↔ r.mboxWord[4 * c.val + j.val]'(by omega) ≠ 0#32

/-- A write of GPU_ROUTE: both route fields take their bits of the written word; the outputs follow within the write; nothing else changes. -/
def Obligations.WrGpuRouteResult : Prop :=
  ∀ (s : State) (w : Word), s.routerFatal = none →
    ∃ t, exec (.wrGpuRoute w) s = .next t ∧ t.router.gpuIrqRoute.toNat = w.toNat % 4 ∧ t.router.gpuFiqRoute.toNat = w.toNat / 4 % 4 ∧
      RouterBecomes { s.router with gpuIrqRoute := w.extractLsb' 0 2, gpuFiqRoute := w.extractLsb' 2 2 } s t

/-- A write of a route-control register stores bits 7 to 0 as written; the outputs follow within the write; nothing else changes. -/
def Obligations.WrRouteCtrlResult : Prop :=
  ∀ (s : State) (c : Core) (w : Word), s.routerFatal = none →
    (∃ t, exec (.wrLocalRouteCtrl c w) s = .next t ∧ t.router.localRouteCtrl[c] = w.extractLsb' 0 8 ∧
      RouterBecomes { s.router with localRouteCtrl := s.router.localRouteCtrl.set c (w.extractLsb' 0 8) } s t) ∧
    (∃ t, exec (.wrMboxRouteCtrl c w) s = .next t ∧ t.router.mailboxRouteCtrl[c] = w.extractLsb' 0 8 ∧
      RouterBecomes { s.router with mailboxRouteCtrl := s.router.mailboxRouteCtrl.set c (w.extractLsb' 0 8) } s t)

/-- MBOX_SET ORs the written word in and MBOX_RDCLR clears its set bits; the outputs follow within the write; no other mailbox word and nothing else changes. -/
def Obligations.WrMboxSetAndClrResult : Prop :=
  ∀ (s : State) (m : MboxIndex) (w : Word), s.routerFatal = none →
    (∃ t, exec (.wrMboxSet m w) s = .next t ∧ t.router.mboxWord[m] = s.router.mboxWord[m] ||| w ∧
      RouterBecomes { s.router with mboxWord := s.router.mboxWord.set m (s.router.mboxWord[m] ||| w) } s t) ∧
    (∃ t, exec (.wrMboxClr m w) s = .next t ∧ t.router.mboxWord[m] = s.router.mboxWord[m] &&& ~~~w ∧
      RouterBecomes { s.router with mboxWord := s.router.mboxWord.set m (s.router.mboxWord[m] &&& ~~~w) } s t)

/-- The router reads return their field zero-extended and change nothing. -/
def Obligations.RouterReadsResult : Prop :=
  ∀ (s : State), s.routerFatal = none →
    (∃ v : Word, exec .rdGpuRoute s = .next { s with rdata := some v } ∧ v.extractLsb' 0 2 = s.router.gpuIrqRoute ∧
      v.extractLsb' 2 2 = s.router.gpuFiqRoute ∧ v.extractLsb' 4 28 = 0#28) ∧
    (∀ c : Core,
      (∃ v : Word, exec (.rdLocalRouteCtrl c) s = .next { s with rdata := some v } ∧ v.toNat = s.router.localRouteCtrl[c].toNat) ∧
      (∃ v : Word, exec (.rdMboxRouteCtrl c) s = .next { s with rdata := some v } ∧ v.toNat = s.router.mailboxRouteCtrl[c].toNat) ∧
      (∃ v : Word, exec (.rdIrqSource c) s = .next { s with rdata := some v } ∧ v.toNat = s.router.irqSource[c].toNat) ∧
      (∃ v : Word, exec (.rdFiqSource c) s = .next { s with rdata := some v } ∧ v.toNat = s.router.fiqSource[c].toNat)) ∧
    ∀ m : MboxIndex, exec (.rdMbox m) s = .next { s with rdata := some s.router.mboxWord[m] }

/-- A snapshot read between events returns what the current inputs give: reads are never stale. -/
def Obligations.SourceReadsAreNeverStale : Prop :=
  ∀ (s : State) (c : Core), Inv s → s.routerFatal = none →
    exec (.rdIrqSource c) s = .next { s with rdata := some ((s.router.irqClosed c).setWidth 32) } ∧
    exec (.rdFiqSource c) s = .next { s with rdata := some ((s.router.fiqClosed c).setWidth 32) }

/-- Bad-register and rejected router accesses: one record in the log, a read returns 0, and between events nothing else changes. -/
def Obligations.RouterBadAccessesOnlyLog : Prop :=
  ∀ (s : State) (off : Offset) (w : Word) (size : AccessSize), s.routerFatal = none → s.router.Fresh →
    exec (.rdRouterBad off) s = .next { s with diagLog := s.diagLog ++ [⟨.router, .routerBadRead, off, 0#32⟩], rdata := some 0#32 } ∧
    exec (.wrRouterBad off w) s = .next { s with diagLog := s.diagLog ++ [⟨.router, .routerBadWrite, off, w⟩], rdata := none } ∧
    exec (.routerBadAccess .read size off w) s =
      .next { s with diagLog := s.diagLog ++ [⟨.router, .badAccess, off, 0#32⟩], rdata := some 0#32 } ∧
    exec (.routerBadAccess .write size off w) s =
      .next { s with diagLog := s.diagLog ++ [⟨.router, .badAccess, off, w⟩], rdata := none }

/-- A router signal latches its level in its own bit and no other; the outputs follow within the event; nothing else changes. -/
def Obligations.RouterSignalsResult : Prop :=
  ∀ (s : State) (l : Bool), s.routerFatal = none →
    (∀ (c : Fin 16) (i : Core) (h : c.val < 4), ∃ t, exec (.sigLocalIrq c i l) s = .next t ∧
      (∀ n : Nat, t.router.localIrqBits[c.val].getLsbD n =
        if n = i.val then l else s.router.localIrqBits[c.val].getLsbD n) ∧
      RouterBecomes { s.router with localIrqBits := s.router.localIrqBits.set c.val t.router.localIrqBits[c.val] } s t) ∧
    (∃ t, exec (.sigGpuIrq l) s = .next t ∧ RouterBecomes { s.router with gpuIrqLevel := l } s t) ∧
    (∃ t, exec (.sigGpuFiq l) s = .next t ∧ RouterBecomes { s.router with gpuFiqLevel := l } s t)

/-- A signal index out of its range is fatal for its block: the flag is set with FATAL_SIGNAL_INDEX and nothing else of the machine changes. That this event answers a next state, and only a later one is stopped, is the model's choice (log entry 9). -/
def Obligations.SignalIndexOutOfRangeIsFatal : Prop :=
  ∀ (s : State) (n : Fin 16) (i : Core) (l : Bool),
    (4 ≤ n.val → s.routerFatal = none →
      exec (.sigLocalIrq n i l) s = .next { s with routerFatal := some .signalIndex, rdata := none }) ∧
    (9 ≤ n.val → s.mboxFatal = none →
      exec (.sigChannelAvailable n l) s = .next { s with mboxFatal := some .signalIndex, rdata := none })

/-- Delivering the level a router line already has a second time changes no state and is no event on any outbound line. -/
def Obligations.RepeatedLevelChangesNothing : Prop :=
  ∀ (s t u : State) (n : RouterLine) (l : Bool),
    exec (n.event l) s = .next t → exec (n.event l) t = .next u → u = t ∧ lineEvents t u = []

/-- Signals on two different router lines give the same state in either order. -/
def Obligations.RouterSignalsCommute : Prop :=
  ∀ (s t t' u u' : State) (n n' : RouterLine) (l l' : Bool), n ≠ n' →
    exec (n.event l) s = .next t → exec (n'.event l') t = .next t' →
    exec (n'.event l') s = .next u → exec (n.event l) u = .next u' → t' = u'

/-- No router event touches the mailbox block, its history, its environment or its fatal flag. -/
def Obligations.RouterEventsLeaveMboxAlone : Prop :=
  ∀ (i : Instr) (s t : State), isRouterEvent i = true → exec i s = .next t →
    t.mbox = s.mbox ∧ t.mboxFatal = s.mboxFatal ∧ t.mboxHistory = s.mboxHistory ∧ t.envAnswers = s.envAnswers ∧
    t.platform = s.platform ∧ t.inbox = s.inbox ∧ lineLevel t .mboxIrq = lineLevel s .mboxIrq

/-- Router reset leaves every router field 0 and every line deasserted, whatever the state before, and changes nothing else; every router register then reads 0. -/
def Obligations.ResetRouterResult : Prop :=
  ∀ s : State, s.routerFatal = none →
    exec .resetRouter s = .next { s with router := Router.reset, rdata := none } ∧
    ∀ i, IsRouterRegisterRead i → exec i { s with router := Router.reset, rdata := none } =
      .next { s with router := Router.reset, rdata := some 0#32 }

/-! ## The mailbox block's queues -/

/-- QueuePush on a queue that is not full appends the word as its last entry, the sentinel included, and keeps the slots past the count at the sentinel. -/
def Obligations.QueuePushAppends : Prop :=
  ∀ (q : Queue) (v sentinel : Word), q.Ok sentinel → q.count < 32 →
    (q.push v).entries = q.entries ++ [v] ∧ (q.push v).count = q.count + 1 ∧ (q.push v).Ok sentinel

/-- QueuePull on a queue that is not empty removes the head, keeps the order of the rest, is one shorter, and leaves the sentinel in the vacated slot. -/
def Obligations.QueuePullRemovesHead : Prop :=
  ∀ (q : Queue) (sentinel : Word), q.Ok sentinel → q.count ≠ 0 →
    q.entries = q.reg[0] :: (q.pull sentinel).entries ∧ (q.pull sentinel).count + 1 = q.count ∧
    (q.pull sentinel).Ok sentinel

/-- The status word: FULL in bit 31, EMPTY in bit 30, bits 29 to 0 read 0. -/
def Obligations.StatusWordBits : Prop :=
  ∀ (q : Queue) (n : Nat), q.status.getLsbD n = true ↔ (n = 31 ∧ q.count = 32) ∨ (n = 30 ∧ q.count = 0)

/-! ## The drain -/

/-- Every MboxRecompute ends within the model's bound on passes: more passes change nothing, at most 297 payload reads and at most 32 pulls are made, and the count stays within 32. -/
def Obligations.RecomputeTerminates : Prop :=
  ∀ s : State, s.mbox.rq.count ≤ 32 →
    (∀ n, drainLoop (drainPasses + n) (setGuard true s) = drainLoop drainPasses (setGuard true s)) ∧
    (mboxRecompute s).mboxHistory.length ≤ s.mboxHistory.length + 297 ∧
    s.mbox.rq.count ≤ (mboxRecompute s).mbox.rq.count ∧ (mboxRecompute s).mbox.rq.count ≤ 32

/-- MboxRecompute reads payload cells only, with room in the host-read queue the lowest available channel's first, and the entries it adds to that queue are, in order, exactly the words those reads returned that are not the sentinel. -/
def Obligations.DrainPullsWhatItReads : Prop :=
  ∀ s : State, s.mbox.rq.Ok s.platform.sentinel → (mboxRecompute s).mboxFatal = none → Drained s (mboxRecompute s)

/-- A read that returned the sentinel is followed, if at all, by the read of a higher channel's cell: the scan goes on upwards and starts again only after a pull. Every read of a pass is of a channel whose flag is 1 when the pass reaches it, so an unavailable channel's cell is never read. -/
def Obligations.ScanAscendsUntilPull : Prop :=
  (∀ s : State, ∃ reads, (mboxRecompute s).mboxHistory = s.mboxHistory ++ reads ∧
    ∀ pre x y post, reads = pre ++ x :: y :: post → accessValue x = s.platform.sentinel → accessAddr x < accessAddr y) ∧
  ∀ (chs : List Channel) (s : State), ∃ reads, (drainScan chs s).2.mboxHistory = s.mboxHistory ++ reads ∧
    ∀ pre x post, reads = pre ++ x :: post →
      ∃ (ch : Channel) (above : List Channel) (u : State) (v : Word), ch :: above <:+ chs ∧
        drainScan chs s = drainScan (ch :: above) u ∧ u.mboxHistory = s.mboxHistory ++ pre ∧
        u.mbox.channelAvailable[ch] = true ∧ x = .read (payloadAddr ch.val) v

/-- Each pass starts at the lowest available channel, whatever the history before it, and a pass that pulled is followed by another from channel 0. -/
def Obligations.PassStartsAtLowestAvailable : Prop :=
  ∀ (n : Nat) (s : State) (ch : Channel), s.mbox.rq.count ≠ 32 → LowestAvailable s ch →
    (∃ v reads, (drainLoop (n + 1) s).mboxHistory = s.mboxHistory ++ .read (payloadAddr ch.val) v :: reads) ∧
    ∀ t, drainScan allChannels s = (true, t) → t.mboxFatal = none → drainLoop (n + 1) s = drainLoop n t

/-- While the guard is 1 a nested channel signal sets its flag and starts no recompute, whichever recompute it could start; with the guard 0 it starts one. -/
def Obligations.GuardSuppressesNestedRecompute : Prop :=
  ∀ (recompute : State → State) (s : State) (ch : Fin 16) (h : ch.val < 9) (l : Bool), s.mboxFatal = none →
    (s.mbox.updateInProgress = true → deliverSignal recompute (.channel ch l) s = setChannel ⟨ch.val, h⟩ l s) ∧
    (s.mbox.updateInProgress = false → deliverSignal recompute (.channel ch l) s = recompute (setChannel ⟨ch.val, h⟩ l s)) ∧
    (∀ sig : Signal, s.mbox.updateInProgress = true → deliverSignal recompute sig s = deliverInDrain sig s)

/-- The re-entrancy window: a channel below the one being read that becomes available during a read of a pass that pulls nothing is not drained by this recompute; it stays available. -/
def Obligations.LowerChannelWaitsForNextRecompute : Prop :=
  ∀ (s : State) (lo ch : Channel) (later : List EnvAnswer), lo.val < ch.val → s.mboxFatal = none → s.mbox.rq.count < 32 →
    (∀ b : Channel, s.mbox.channelAvailable[b] = decide (b = ch)) →
    s.envAnswers = ⟨s.platform.sentinel, [.channel ⟨lo.val, by omega⟩ true]⟩ :: later →
    (mboxRecompute s).mboxHistory = s.mboxHistory ++ [.read (payloadAddr ch.val) s.platform.sentinel] ∧
    (mboxRecompute s).mbox.rq = s.mbox.rq ∧ (mboxRecompute s).mbox.channelAvailable[lo] = true ∧
    (mboxRecompute s).envAnswers = later

/-- At the end of every MboxRecompute of a block that did not stop, the guard is 0 and the line is asserted exactly when the host-read queue is not empty and the enable is set; with no channel available nothing else changed. -/
def Obligations.RecomputeDrivesIrqLine : Prop :=
  ∀ s : State,
    ((mboxRecompute s).mboxFatal = none → (mboxRecompute s).mbox.updateInProgress = false ∧
      ((mboxRecompute s).mbox.mboxIrqOut = true ↔
        (mboxRecompute s).mbox.rq.count ≠ 0 ∧ (mboxRecompute s).mbox.configIrqEn = true)) ∧
    (s.mboxFatal = none → NoChannel s → mboxRecompute s = { s with mbox := settledMbox s.mbox.rq s.mbox })

/-! ## The mailbox block's registers and signal -/

/-- A POP returns the head, or the sentinel when the queue is empty, fixed before the recompute; the queue is then its tail and what the drain pulled; with no channel available nothing else changes. For a block that did not stop inside the drain (log entry 10). -/
def Obligations.RdPopResult : Prop :=
  ∀ (s : State) (r : Fin 4), s.mboxFatal = none → s.mbox.rq.Ok s.platform.sentinel →
    ∃ (t : State) (q : Queue), exec (.rdPop r) s = .next t ∧ q.entries = s.mbox.rq.entries.tail ∧
      q.count = s.mbox.rq.count - 1 ∧ q.Ok s.platform.sentinel ∧
      (t.mboxFatal = none →
        t.rdata = some (if s.mbox.rq.count = 0 then s.platform.sentinel else s.mbox.rq.reg[0]) ∧
        Drained { s with mbox := { s.mbox with rq := q }, rdata := none } t) ∧
      (NoChannel s → t = { s with
        mbox := settledMbox q s.mbox
        rdata := some (if s.mbox.rq.count = 0 then s.platform.sentinel else s.mbox.rq.reg[0]) })

/-- PEEK, SENDER and CONFIG reads return their value as it was before the recompute and then drain; with no channel available nothing but the line and the guard changes. For a block that did not stop inside the drain (log entry 10). -/
def Obligations.DrainingReadsResult : Prop :=
  ∀ (s : State) (i : Instr) (v : Word), s.mboxFatal = none → s.mbox.rq.Ok s.platform.sentinel →
    ((i = .rdPeek ∧ v = s.mbox.rq.reg[0]) ∨ (i = .rdSender ∧ v = 0#32) ∨
      (i = .rdConfig ∧ v = if s.mbox.configIrqEn then 1#32 else 0#32)) →
    ∃ t, exec i s = .next t ∧ (t.mboxFatal = none → t.rdata = some v ∧ Drained { s with rdata := none } t) ∧
      (NoChannel s → t = { s with mbox := settledMbox s.mbox.rq s.mbox, rdata := some v })

/-- A PEEK of a queue that is not empty and then a POP with no event between return the same value. -/
def Obligations.PeekThenPopAgree : Prop :=
  ∀ (s t u : State) (r : Fin 4), Inv s → s.mbox.rq.count ≠ 0 → exec .rdPeek s = .next t → t.mboxFatal = none →
    exec (.rdPop r) t = .next u → u.mboxFatal = none → t.rdata = some s.mbox.rq.reg[0] ∧ u.rdata = t.rdata

/-- STATUS0 and STATUS1 return the status of their queue and change nothing: no recompute. -/
def Obligations.StatusReadsChangeNothing : Prop :=
  ∀ s : State, s.mboxFatal = none →
    (∃ v : Word, exec .rdStatus0 s = .next { s with rdata := some v } ∧
      v.toNat = (if s.mbox.rq.count = 32 then 0x80000000 else if s.mbox.rq.count = 0 then 0x40000000 else 0)) ∧
    (∃ v : Word, exec .rdStatus1 s = .next { s with rdata := some v } ∧
      v.toNat = (if s.mbox.wq.count = 32 then 0x80000000 else if s.mbox.wq.count = 0 then 0x40000000 else 0))

/-- A write of CONFIG stores bit 0 as the enable, drains, and drives the line within the write. For a block that did not stop inside the drain (log entry 10). -/
def Obligations.WrConfigResult : Prop :=
  ∀ (s : State) (w : Word), s.mboxFatal = none → s.mbox.rq.Ok s.platform.sentinel →
    ∃ t, exec (.wrConfig w) s = .next t ∧
      (t.mboxFatal = none → t.mbox.configIrqEn = w.getLsbD 0 ∧ t.rdata = none ∧
        t.mbox.mboxIrqOut = (t.mbox.rq.count != 0 && w.getLsbD 0) ∧
        Drained { s with mbox := { s.mbox with configIrqEn := w.getLsbD 0 }, rdata := none } t) ∧
      (NoChannel s →
        t = { s with mbox := settledMbox s.mbox.rq { s.mbox with configIrqEn := w.getLsbD 0 }, rdata := none })

/-- A push is dropped, with one record and no access to a pending cell and no delivery, when the host-write queue is full (checked first) or when its channel field is 9 to 15; the recompute still runs. For a block that did not stop inside the drain (log entry 10). -/
def Obligations.DroppedPushOnlyLogsAndDrains : Prop :=
  ∀ (s : State) (r : Fin 4) (w : Word), s.mboxFatal = none → s.mbox.rq.Ok s.platform.sentinel →
    (s.mbox.wq.count = 32 ∨ 9 ≤ w.toNat % 16) →
    ∃ (t : State) (d : Diag), exec (.wrPush r w) s = .next t ∧
      d = ⟨.mbox, if s.mbox.wq.count = 32 then .mboxWqFull else .mboxInvalidChannel, BitVec.ofNat 8 (0xA0 + 4 * r.val), w⟩ ∧
      (t.mboxFatal = none → t.mbox.wq = s.mbox.wq ∧ t.rdata = none ∧ t.diagLog = s.diagLog ++ [d] ∧
        Drained { s with diagLog := s.diagLog ++ [d], rdata := none } t) ∧
      (NoChannel s → t = { s with mbox := settledMbox s.mbox.rq s.mbox, diagLog := s.diagLog ++ [d], rdata := none })

/-- A push to a channel in range while the host-write queue has room reads the pending cell once: a non-zero cell queues the whole word, a zero cell writes the whole word to the payload cell and leaves the queue as it was; then it drains. Stated for an environment that delivers no signal during the push's own accesses, and for a block that did not stop inside the drain (log entry 10). -/
def Obligations.PushFollowsPendingCell : Prop :=
  ∀ (s : State) (r : Fin 4) (w : Word) (a b : EnvAnswer) (later : List EnvAnswer),
    s.mboxFatal = none → s.mbox.rq.Ok s.platform.sentinel → s.mbox.wq.Ok s.platform.sentinel → s.mbox.wq.count < 32 →
    w.toNat % 16 ≤ 8 → s.envAnswers = a :: b :: later → a.nested = [] → b.nested = [] →
    ∃ t, exec (.wrPush r w) s = .next t ∧
      (t.mboxFatal = none → t.diagLog = s.diagLog ∧ t.rdata = none ∧
        (a.value ≠ 0#32 → t.mbox.wq.entries = s.mbox.wq.entries ++ [w] ∧
          Drained { s with
            mbox := { s.mbox with wq := t.mbox.wq }, envAnswers := b :: later, rdata := none
            mboxHistory := s.mboxHistory ++ [.read (16 * (w.toNat % 16) + s.platform.pendingOffset) a.value] } t) ∧
        (a.value = 0#32 → t.mbox.wq = s.mbox.wq ∧
          Drained { s with
            envAnswers := later, rdata := none
            mboxHistory := s.mboxHistory ++
              [.read (16 * (w.toNat % 16) + s.platform.pendingOffset) a.value, .write (16 * (w.toNat % 16)) w] } t)) ∧
      (NoChannel s → t.mbox.rq = s.mbox.rq ∧ t.router = s.router ∧ t.mboxFatal = none ∧
        t.mbox = settledMbox s.mbox.rq { s.mbox with wq := t.mbox.wq })

/-- Whatever signals the environment delivers during a push, a push that completes queues the word exactly when the pending cell it read was not zero. -/
def Obligations.PushQueuesExactlyWhenPending : Prop :=
  ∀ (s t : State) (r : Fin 4) (w : Word), Inv s → s.mbox.wq.count < 32 → w.toNat % 16 ≤ 8 →
    exec (.wrPush r w) s = .next t → t.mboxFatal = none →
    t.mbox.wq.entries = s.mbox.wq.entries ++
      (if (nextAnswer (.read (pendingAddr s.platform (w.toNat % 16))) s).value = 0#32 then [] else [w]) ∧
    t.diagLog = s.diagLog

/-- Unmapped and rejected mailbox accesses: one record in the log, a read returns 0, and nothing else changes: no pop, no recompute. -/
def Obligations.MboxBadAccessesOnlyLog : Prop :=
  ∀ (s : State) (off : Offset) (w : Word) (size : AccessSize), s.mboxFatal = none →
    exec (.rdMboxBad off) s = .next { s with diagLog := s.diagLog ++ [⟨.mbox, .mboxBadRead, off, 0#32⟩], rdata := some 0#32 } ∧
    exec (.wrMboxBad off w) s = .next { s with diagLog := s.diagLog ++ [⟨.mbox, .mboxBadWrite, off, w⟩], rdata := none } ∧
    exec (.mboxBadAccess .read size off w) s =
      .next { s with diagLog := s.diagLog ++ [⟨.mbox, .badAccess, off, 0#32⟩], rdata := some 0#32 } ∧
    exec (.mboxBadAccess .write size off w) s =
      .next { s with diagLog := s.diagLog ++ [⟨.mbox, .badAccess, off, w⟩], rdata := none }

/-- A channel signal sets its flag and, with the guard 0, drains with the flag set; deasserting never removes an entry; with no channel available afterwards only the flag, the guard and the line change. For a block that did not stop inside the drain (log entry 10). -/
def Obligations.SigChannelResult : Prop :=
  ∀ (s : State) (ch : Fin 16) (h : ch.val < 9) (l : Bool), s.mboxFatal = none → s.mbox.rq.Ok s.platform.sentinel →
    s.mbox.updateInProgress = false →
    ∃ t, exec (.sigChannelAvailable ch l) s = .next t ∧
      (t.mboxFatal = none → t.mbox.wq = s.mbox.wq ∧ t.rdata = none ∧
        Drained { setChannel ⟨ch.val, h⟩ l s with rdata := none } t) ∧
      (NoChannel (setChannel ⟨ch.val, h⟩ l s) →
        t = { s with
          mbox := settledMbox s.mbox.rq { s.mbox with channelAvailable := s.mbox.channelAvailable.set ch.val l }
          rdata := none })

/-- Mailbox reset leaves the block in its reset state whatever it was before, makes no access of the mailbox-data region, and changes nothing else; then both status registers read EMPTY, CONFIG and SENDER read 0, POP and PEEK read the sentinel. -/
def Obligations.ResetMboxResult : Prop :=
  ∀ s : State, s.mboxFatal = none →
    exec .resetMbox s = .next { s with mbox := Mbox.reset s.platform.sentinel, rdata := none } ∧
    ∀ (i : Instr) (v : Word), (((i = .rdStatus0 ∨ i = .rdStatus1) ∧ v = 0x40000000#32) ∨ ((i = .rdConfig ∨ i = .rdSender) ∧ v = 0#32) ∨
        ((i = .rdPeek ∨ ∃ r, i = .rdPop r) ∧ v = s.platform.sentinel)) →
      exec i { s with mbox := Mbox.reset s.platform.sentinel, rdata := none } =
        .next { s with mbox := Mbox.reset s.platform.sentinel, rdata := some v }

/-- What no mailbox event changes: the router's registers, the host-write queue unless pushed or reset, CONFIG unless written or reset; the router's input latches change only through nested signals, which need an access of the mailbox-data region. -/
def Obligations.MboxEventsFrame : Prop :=
  ∀ (i : Instr) (s t : State), eventBlock i = some .mbox → exec i s = .next t →
    t.router.localRouteCtrl = s.router.localRouteCtrl ∧ t.router.mailboxRouteCtrl = s.router.mailboxRouteCtrl ∧
    t.router.mboxWord = s.router.mboxWord ∧ t.router.gpuIrqRoute = s.router.gpuIrqRoute ∧
    t.router.gpuFiqRoute = s.router.gpuFiqRoute ∧
    ((∀ r w, i ≠ .wrPush r w) → i ≠ .resetMbox → t.mbox.wq = s.mbox.wq) ∧
    ((∀ w, i ≠ .wrConfig w) → i ≠ .resetMbox → t.mbox.configIrqEn = s.mbox.configIrqEn) ∧
    (t.mboxHistory = s.mboxHistory → t.router = s.router ∧ t.routerFatal = s.routerFatal)

/-! ## Whole-machine rules -/

/-- An event logs at most one record; a signal event and a reset log none. -/
def Obligations.AtMostOneDiagnostic : Prop :=
  ∀ (i : Instr) (s t : State), exec i s = .next t →
    (t.diagLog = s.diagLog ∨ ∃ d : Diag, t.diagLog = s.diagLog ++ [d] ∧ eventBlock i = some d.block) ∧
    (isSignal i = true ∨ i = .resetRouter ∨ i = .resetMbox → t.diagLog = s.diagLog)

/-- A bus read that completes returns a value: a router read always, a mailbox read unless the block stopped inside it. That no other event leaves a value behind is the model's choice (log entry 6). -/
def Obligations.ReadsAndOnlyReadsReturn : Prop :=
  ∀ (i : Instr) (s t : State), exec i s = .next t →
    (isRead i = true → isRouterEvent i = true ∨ t.mboxFatal = none → t.rdata ≠ none) ∧ (isRead i = false → t.rdata = none)

/-- No event ever raises FATAL_QUEUE_INVARIANT or FATAL_STATE_INVARIANT: only a signal index out of range is fatal. -/
def Obligations.OnlySignalIndexIsFatal : Prop :=
  ∀ (i : Instr) (s t : State), Inv s → OnlySignalFatal s.routerFatal → OnlySignalFatal s.mboxFatal → exec i s = .next t →
    OnlySignalFatal t.routerFatal ∧ OnlySignalFatal t.mboxFatal

/-- No register access of the router and no reset of it sets a fatal flag. No register access of the mailbox block, CONFIG writes and pushes included, and no reset of it does on a platform without a wiring fault, and the accesses that read return a value. -/
def Obligations.RegisterAccessIsNeverFatal : Prop :=
  (∀ (i : Instr) (s t : State), isRouterEvent i = true → isSignal i = false → exec i s = .next t →
    t.routerFatal = s.routerFatal ∧ t.mboxFatal = s.mboxFatal) ∧
  ∀ (i : Instr) (s : State), eventBlock i = some .mbox → isSignal i = false → Inv s → s.routerFatal = none →
    s.mboxFatal = none → WiredAnswers s → AnswersSuffice i s →
    ∃ t, exec i s = .next t ∧ t.routerFatal = none ∧ t.mboxFatal = none ∧ (isRead i = true → t.rdata ≠ none)

/-! ## Snapshots, the bus and byte order -/

/-- Restoring a snapshot taken between events brings both blocks back, whatever the state it is restored into, and recomputing the snapshots and lines after the restore gives the same, whatever the image holds in their place. Three things here are the model's choice: a restore that recomputes judges the image without its snapshots and lines (log entry 8), the mailbox line among them (log entry 24), and the log and the fatal flags stay those of the machine restored into (log entry 25). -/
def Obligations.SnapshotRestoresBlocks : Prop :=
  ∀ s u : State, Inv s → s.mboxFatal = none → u.routerFatal = none → u.mboxFatal = none → u.platform = s.platform →
    restoreSnapshot (saveSnapshot s) u = { u with router := s.router, mbox := s.mbox } ∧
    ∀ (irq fiq : Vector Snap 4) (irqLines fiqLines : Vector Bool 4) (mboxLine : Bool),
      restoreRecomputed ⟨{ saveRouter s.router with irqSource := irq, fiqSource := fiq, irqOut := irqLines, fiqOut := fiqLines },
        { s.mbox with mboxIrqOut := mboxLine }⟩ u = restoreSnapshot (saveSnapshot s) u

/-- Restoring a snapshot whose routing index is outside 0..3, whose snapshots or lines are stale (unless they are recomputed), or whose queue breaks its invariant stops the block with FATAL_STATE_INVARIANT, in either way of restoring. That the items of a block so stopped, and those of a block stopped before, stay as they were is the model's choice (log entry 8). -/
def Obligations.CorruptSnapshotIsFatal : Prop :=
  ∀ (g : Snapshot) (s t : State), t = restoreSnapshot g s ∨ t = restoreRecomputed g s →
    (s.routerFatal = none →
      3 < g.router.gpuIrqRoute ∨ 3 < g.router.gpuFiqRoute ∨ (t = restoreSnapshot g s ∧ ¬ (loadRouter g.router).Fresh) →
      t.routerFatal = some .stateInvariant ∧ t.router = s.router) ∧
    (s.mboxFatal = none → ¬ g.mbox.rq.Ok s.platform.sentinel ∨ ¬ g.mbox.wq.Ok s.platform.sentinel →
      t.mboxFatal = some .stateInvariant ∧ t.mbox = s.mbox) ∧
    (s.routerFatal ≠ none → t.routerFatal = s.routerFatal ∧ t.router = s.router) ∧
    (s.mboxFatal ≠ none → t.mboxFatal = s.mboxFatal ∧ t.mbox = s.mbox)

/-- Window decoding: the router does not alias; every 0x100 bytes of the mailbox window alias the same offsets; an offset is 4-aligned before the masking exactly when it is after it. -/
def Obligations.WindowsDecodeAddresses : Prop :=
  ∀ (p : Platform) (a off : Nat),
    (routerOffset p a = some off ↔ off < 0x100 ∧ a = p.routerBase + off) ∧
    (mboxOffset p a = some off ↔ ∃ k, k < p.mboxWindowPages ∧ off < 0x100 ∧ a = p.mboxBase + 0x100 * k + off) ∧
    (∀ raw, mboxRawOffset p a = some raw → (raw % 4 = 0 ↔ (BitVec.ofNat 8 raw).toNat % 4 = 0))

/-- An access of a size other than 4 bytes, or at an offset that is not a multiple of 4, is rejected before its offset is decoded, at either block. -/
def Obligations.RejectedAccessIsDecodedFirst : Prop :=
  ∀ (kind : BusKind) (size : AccessSize) (off : Nat) (w : Word), off < 256 → (size ≠ .four ∨ off % 4 ≠ 0) →
    decode (accessEvent kind .router size off w) =
      .routerBadAccess kind size (BitVec.ofNat 8 off) (match kind with | .read => 0#32 | .write => w) ∧
    decode (accessEvent kind .mbox size off w) =
      .mboxBadAccess kind size (BitVec.ofNat 8 off) (match kind with | .read => 0#32 | .write => w)

/-- Every word of the mailbox-data region is little-endian: byte `k` of the value is at address `base + k`. -/
def Obligations.MboxDataIsLittleEndian : Prop :=
  ∀ (addr : Nat) (v : Word) (k : Nat), k < 4 →
    ∃ b : Byte, (wordCells addr v)[k]? = some (addr + k, b) ∧ b.toNat = v.toNat / 256 ^ k % 256
end

