-- ==== Sys2Proof/Laws/State.lean ====
section
/-! SUPPORT. What each update of the state does to each field of State: true by unfolding, for simp. -/

namespace Sys2Proof.Machine

variable (s : State)

/-! `reply` (R7 `return v`). -/

@[simp] theorem reply_router (v : Word) : (reply v s).router = s.router := rfl
@[simp] theorem reply_mbox (v : Word) : (reply v s).mbox = s.mbox := rfl
@[simp] theorem reply_diagLog (v : Word) : (reply v s).diagLog = s.diagLog := rfl
@[simp] theorem reply_routerFatal (v : Word) : (reply v s).routerFatal = s.routerFatal := rfl
@[simp] theorem reply_mboxFatal (v : Word) : (reply v s).mboxFatal = s.mboxFatal := rfl
@[simp] theorem reply_platform (v : Word) : (reply v s).platform = s.platform := rfl
@[simp] theorem reply_inbox (v : Word) : (reply v s).inbox = s.inbox := rfl
@[simp] theorem reply_envAnswers (v : Word) : (reply v s).envAnswers = s.envAnswers := rfl
@[simp] theorem reply_mboxHistory (v : Word) : (reply v s).mboxHistory = s.mboxHistory := rfl
@[simp] theorem reply_rdata (v : Word) : (reply v s).rdata = some v := rfl

/-! `logDiag` (R232). -/

@[simp] theorem logDiag_router (b : Block) (k : DiagKind) (off : Offset) (v : Word) : (logDiag b k off v s).router = s.router := rfl
@[simp] theorem logDiag_mbox (b : Block) (k : DiagKind) (off : Offset) (v : Word) : (logDiag b k off v s).mbox = s.mbox := rfl
@[simp] theorem logDiag_diagLog (b : Block) (k : DiagKind) (off : Offset) (v : Word) : (logDiag b k off v s).diagLog = s.diagLog ++ [⟨b, k, off, v⟩] := rfl
@[simp] theorem logDiag_routerFatal (b : Block) (k : DiagKind) (off : Offset) (v : Word) : (logDiag b k off v s).routerFatal = s.routerFatal := rfl
@[simp] theorem logDiag_mboxFatal (b : Block) (k : DiagKind) (off : Offset) (v : Word) : (logDiag b k off v s).mboxFatal = s.mboxFatal := rfl
@[simp] theorem logDiag_platform (b : Block) (k : DiagKind) (off : Offset) (v : Word) : (logDiag b k off v s).platform = s.platform := rfl
@[simp] theorem logDiag_inbox (b : Block) (k : DiagKind) (off : Offset) (v : Word) : (logDiag b k off v s).inbox = s.inbox := rfl
@[simp] theorem logDiag_envAnswers (b : Block) (k : DiagKind) (off : Offset) (v : Word) : (logDiag b k off v s).envAnswers = s.envAnswers := rfl
@[simp] theorem logDiag_mboxHistory (b : Block) (k : DiagKind) (off : Offset) (v : Word) : (logDiag b k off v s).mboxHistory = s.mboxHistory := rfl
@[simp] theorem logDiag_rdata (b : Block) (k : DiagKind) (off : Offset) (v : Word) : (logDiag b k off v s).rdata = s.rdata := rfl

/-! `updateRouter` (R124). -/

@[simp] theorem updateRouter_router (f : Router → Router) : (updateRouter f s).router = routerRecompute (f s.router) := rfl
@[simp] theorem updateRouter_mbox (f : Router → Router) : (updateRouter f s).mbox = s.mbox := rfl
@[simp] theorem updateRouter_diagLog (f : Router → Router) : (updateRouter f s).diagLog = s.diagLog := rfl
@[simp] theorem updateRouter_routerFatal (f : Router → Router) : (updateRouter f s).routerFatal = s.routerFatal := rfl
@[simp] theorem updateRouter_mboxFatal (f : Router → Router) : (updateRouter f s).mboxFatal = s.mboxFatal := rfl
@[simp] theorem updateRouter_platform (f : Router → Router) : (updateRouter f s).platform = s.platform := rfl
@[simp] theorem updateRouter_inbox (f : Router → Router) : (updateRouter f s).inbox = s.inbox := rfl
@[simp] theorem updateRouter_envAnswers (f : Router → Router) : (updateRouter f s).envAnswers = s.envAnswers := rfl
@[simp] theorem updateRouter_mboxHistory (f : Router → Router) : (updateRouter f s).mboxHistory = s.mboxHistory := rfl
@[simp] theorem updateRouter_rdata (f : Router → Router) : (updateRouter f s).rdata = s.rdata := rfl

/-! `setChannel` (R211). -/

@[simp] theorem setChannel_router (ch : Channel) (l : Bool) : (setChannel ch l s).router = s.router := rfl
@[simp] theorem setChannel_mbox (ch : Channel) (l : Bool) : (setChannel ch l s).mbox = { s.mbox with channelAvailable := s.mbox.channelAvailable.set ch l } := rfl
@[simp] theorem setChannel_diagLog (ch : Channel) (l : Bool) : (setChannel ch l s).diagLog = s.diagLog := rfl
@[simp] theorem setChannel_routerFatal (ch : Channel) (l : Bool) : (setChannel ch l s).routerFatal = s.routerFatal := rfl
@[simp] theorem setChannel_mboxFatal (ch : Channel) (l : Bool) : (setChannel ch l s).mboxFatal = s.mboxFatal := rfl
@[simp] theorem setChannel_platform (ch : Channel) (l : Bool) : (setChannel ch l s).platform = s.platform := rfl
@[simp] theorem setChannel_inbox (ch : Channel) (l : Bool) : (setChannel ch l s).inbox = s.inbox := rfl
@[simp] theorem setChannel_envAnswers (ch : Channel) (l : Bool) : (setChannel ch l s).envAnswers = s.envAnswers := rfl
@[simp] theorem setChannel_mboxHistory (ch : Channel) (l : Bool) : (setChannel ch l s).mboxHistory = s.mboxHistory := rfl
@[simp] theorem setChannel_rdata (ch : Channel) (l : Bool) : (setChannel ch l s).rdata = s.rdata := rfl

/-! `setGuard` (R36). -/

@[simp] theorem setGuard_router (b : Bool) : (setGuard b s).router = s.router := rfl
@[simp] theorem setGuard_mbox (b : Bool) : (setGuard b s).mbox = { s.mbox with updateInProgress := b } := rfl
@[simp] theorem setGuard_diagLog (b : Bool) : (setGuard b s).diagLog = s.diagLog := rfl
@[simp] theorem setGuard_routerFatal (b : Bool) : (setGuard b s).routerFatal = s.routerFatal := rfl
@[simp] theorem setGuard_mboxFatal (b : Bool) : (setGuard b s).mboxFatal = s.mboxFatal := rfl
@[simp] theorem setGuard_platform (b : Bool) : (setGuard b s).platform = s.platform := rfl
@[simp] theorem setGuard_inbox (b : Bool) : (setGuard b s).inbox = s.inbox := rfl
@[simp] theorem setGuard_envAnswers (b : Bool) : (setGuard b s).envAnswers = s.envAnswers := rfl
@[simp] theorem setGuard_mboxHistory (b : Bool) : (setGuard b s).mboxHistory = s.mboxHistory := rfl
@[simp] theorem setGuard_rdata (b : Bool) : (setGuard b s).rdata = s.rdata := rfl

/-! `driveMboxIrq` (R177). -/

@[simp] theorem driveMboxIrq_router : (driveMboxIrq s).router = s.router := rfl
@[simp] theorem driveMboxIrq_mbox : (driveMboxIrq s).mbox = { s.mbox with mboxIrqOut := s.mbox.irqLevel } := rfl
@[simp] theorem driveMboxIrq_diagLog : (driveMboxIrq s).diagLog = s.diagLog := rfl
@[simp] theorem driveMboxIrq_routerFatal : (driveMboxIrq s).routerFatal = s.routerFatal := rfl
@[simp] theorem driveMboxIrq_mboxFatal : (driveMboxIrq s).mboxFatal = s.mboxFatal := rfl
@[simp] theorem driveMboxIrq_platform : (driveMboxIrq s).platform = s.platform := rfl
@[simp] theorem driveMboxIrq_inbox : (driveMboxIrq s).inbox = s.inbox := rfl
@[simp] theorem driveMboxIrq_envAnswers : (driveMboxIrq s).envAnswers = s.envAnswers := rfl
@[simp] theorem driveMboxIrq_mboxHistory : (driveMboxIrq s).mboxHistory = s.mboxHistory := rfl
@[simp] theorem driveMboxIrq_rdata : (driveMboxIrq s).rdata = s.rdata := rfl

/-! `useAnswer` (R75). -/

@[simp] theorem useAnswer_router (req : MboxRequest) : (useAnswer req s).router = s.router := rfl
@[simp] theorem useAnswer_mbox (req : MboxRequest) : (useAnswer req s).mbox = s.mbox := rfl
@[simp] theorem useAnswer_diagLog (req : MboxRequest) : (useAnswer req s).diagLog = s.diagLog := rfl
@[simp] theorem useAnswer_routerFatal (req : MboxRequest) : (useAnswer req s).routerFatal = s.routerFatal := rfl
@[simp] theorem useAnswer_mboxFatal (req : MboxRequest) : (useAnswer req s).mboxFatal = s.mboxFatal := rfl
@[simp] theorem useAnswer_platform (req : MboxRequest) : (useAnswer req s).platform = s.platform := rfl
@[simp] theorem useAnswer_inbox (req : MboxRequest) : (useAnswer req s).inbox = s.inbox := rfl
@[simp] theorem useAnswer_envAnswers (req : MboxRequest) : (useAnswer req s).envAnswers = s.envAnswers.tail := rfl
@[simp] theorem useAnswer_mboxHistory (req : MboxRequest) : (useAnswer req s).mboxHistory = s.mboxHistory ++ [recordOf (nextAnswer req s).value req] := rfl
@[simp] theorem useAnswer_rdata (req : MboxRequest) : (useAnswer req s).rdata = s.rdata := rfl

/-! The fatal flags (R39). -/

theorem raiseFatal_router_eq (k : FatalKind) : raiseFatal .router k s = { s with routerFatal := s.routerFatal.or (some k) } := rfl

theorem raiseFatal_mbox_eq (k : FatalKind) : raiseFatal .mbox k s = { s with mboxFatal := s.mboxFatal.or (some k) } := rfl

@[simp] theorem raiseFatal_router (b : Block) (k : FatalKind) : (raiseFatal b k s).router = s.router := by cases b <;> rfl
@[simp] theorem raiseFatal_mbox (b : Block) (k : FatalKind) : (raiseFatal b k s).mbox = s.mbox := by cases b <;> rfl
@[simp] theorem raiseFatal_diagLog (b : Block) (k : FatalKind) : (raiseFatal b k s).diagLog = s.diagLog := by cases b <;> rfl
@[simp] theorem raiseFatal_platform (b : Block) (k : FatalKind) : (raiseFatal b k s).platform = s.platform := by cases b <;> rfl
@[simp] theorem raiseFatal_inbox (b : Block) (k : FatalKind) : (raiseFatal b k s).inbox = s.inbox := by cases b <;> rfl
@[simp] theorem raiseFatal_envAnswers (b : Block) (k : FatalKind) : (raiseFatal b k s).envAnswers = s.envAnswers := by cases b <;> rfl
@[simp] theorem raiseFatal_mboxHistory (b : Block) (k : FatalKind) : (raiseFatal b k s).mboxHistory = s.mboxHistory := by cases b <;> rfl
@[simp] theorem raiseFatal_rdata (b : Block) (k : FatalKind) : (raiseFatal b k s).rdata = s.rdata := by cases b <;> rfl

@[simp] theorem stopped_router : stopped .router s = s.routerFatal.isSome := rfl

@[simp] theorem stopped_mbox : stopped .mbox s = s.mboxFatal.isSome := rfl

/-- A fatal flag, once set, keeps its value (R39). -/
theorem raiseFatal_keeps_set (k : FatalKind) (h : s.mboxFatal ≠ none) : (raiseFatal .mbox k s).mboxFatal = s.mboxFatal := by
  cases hf : s.mboxFatal with
  | none => exact absurd hf h
  | some _ => simp [raiseFatal, hf]

/-- Everything `unlessStopped` can do: nothing if the block has stopped, else what it is given. -/
theorem unlessStopped_cases (b : Block) (f : State → State) :
    (stopped b s = true ∧ unlessStopped b f s = s) ∨ (stopped b s = false ∧ unlessStopped b f s = f s) := by
  unfold unlessStopped
  cases stopped b s <;> simp

/-- Everything an event's frame can do: a fault if the block has stopped, else the next state it is given. -/
theorem onEvent_next (b : Block) (f : State → State) (t : State) :
    onEvent b f s = .next t ↔ stopped b s = false ∧ t = f { s with rdata := none } := by
  unfold onEvent
  cases stopped b s <;> simp [eq_comm]

/-- An event's frame faults exactly for a stopped block, under its name. -/
theorem onEvent_fault (b : Block) (f : State → State) (r : Fault) :
    onEvent b f s = .fault r ↔ stopped b s = true ∧ r = .blockStopped b := by
  unfold onEvent
  cases stopped b s <;> simp [eq_comm]

end Sys2Proof.Machine
end

