-- ==== Sys2Proof/Laws/Exec.lean ====
section
/-! SUPPORT. Each event's meaning as its block's frame (onEvent) around one function of the state, and when an event runs. -/

namespace Sys2Proof.Machine

variable (s : State)

theorem exec_rdGpuRoute : exec (.rdGpuRoute) s =
    onEvent .router (fun s => reply (gpuRouteWord s.router) s) s := rfl

theorem exec_wrGpuRoute (w : Word) : exec (.wrGpuRoute w) s =
    onEvent .router (updateRouter fun r => { r with gpuIrqRoute := gpuIrqField w, gpuFiqRoute := gpuFiqField w }) s := rfl

theorem exec_rdLocalRouteCtrl (c : Core) : exec (.rdLocalRouteCtrl c) s =
    onEvent .router (fun s => reply (s.router.localRouteCtrl[c].setWidth 32) s) s := rfl

theorem exec_wrLocalRouteCtrl (c : Core) (w : Word) : exec (.wrLocalRouteCtrl c w) s =
    onEvent .router (updateRouter fun r => { r with localRouteCtrl := r.localRouteCtrl.set c (ctrlField w) }) s := rfl

theorem exec_rdMboxRouteCtrl (c : Core) : exec (.rdMboxRouteCtrl c) s =
    onEvent .router (fun s => reply (s.router.mailboxRouteCtrl[c].setWidth 32) s) s := rfl

theorem exec_wrMboxRouteCtrl (c : Core) (w : Word) : exec (.wrMboxRouteCtrl c w) s =
    onEvent .router (updateRouter fun r => { r with mailboxRouteCtrl := r.mailboxRouteCtrl.set c (ctrlField w) }) s := rfl

theorem exec_rdIrqSource (c : Core) : exec (.rdIrqSource c) s =
    onEvent .router (fun s => reply (s.router.irqSource[c].setWidth 32) s) s := rfl

theorem exec_rdFiqSource (c : Core) : exec (.rdFiqSource c) s =
    onEvent .router (fun s => reply (s.router.fiqSource[c].setWidth 32) s) s := rfl

theorem exec_wrMboxSet (m : MboxIndex) (w : Word) : exec (.wrMboxSet m w) s =
    onEvent .router (updateRouter fun r => { r with mboxWord := r.mboxWord.set m (r.mboxWord[m] ||| w) }) s := rfl

theorem exec_rdMbox (m : MboxIndex) : exec (.rdMbox m) s =
    onEvent .router (fun s => reply s.router.mboxWord[m] s) s := rfl

theorem exec_wrMboxClr (m : MboxIndex) (w : Word) : exec (.wrMboxClr m w) s =
    onEvent .router (updateRouter fun r => { r with mboxWord := r.mboxWord.set m (r.mboxWord[m] &&& ~~~w) }) s := rfl

theorem exec_rdRouterBad (off : Offset) : exec (.rdRouterBad off) s =
    onEvent .router (fun s => reply 0#32 (logDiag .router .routerBadRead off 0#32 s)) s := rfl

theorem exec_wrRouterBad (off : Offset) (w : Word) : exec (.wrRouterBad off w) s =
    onEvent .router (fun s => updateRouter id (logDiag .router .routerBadWrite off w s)) s := rfl

theorem exec_routerBadAccess_read (size : AccessSize) (off : Offset) (w : Word) : exec (.routerBadAccess .read size off w) s =
    onEvent .router (fun s => reply 0#32 (logDiag .router .badAccess off 0#32 s)) s := rfl

theorem exec_routerBadAccess_write (size : AccessSize) (off : Offset) (w : Word) : exec (.routerBadAccess .write size off w) s = onEvent .router (logDiag .router .badAccess off w) s := rfl

theorem exec_rdPop (r : Fin 4) : exec (.rdPop r) s =
    onEvent .mbox (fun s =>
      if s.mbox.rq.isEmpty then recomputeThenReply s.platform.sentinel s
      else recomputeThenReply s.mbox.rq.reg[0] (pullRq s)) s := rfl

theorem exec_rdPeek : exec (.rdPeek) s =
    onEvent .mbox (fun s => recomputeThenReply s.mbox.rq.reg[0] s) s := rfl

theorem exec_rdSender : exec (.rdSender) s =
    onEvent .mbox (recomputeThenReply 0#32) s := rfl

theorem exec_rdStatus0 : exec (.rdStatus0) s =
    onEvent .mbox (fun s => reply s.mbox.rq.status s) s := rfl

theorem exec_rdConfig : exec (.rdConfig) s =
    onEvent .mbox (fun s => recomputeThenReply (configWord s.mbox) s) s := rfl

theorem exec_rdStatus1 : exec (.rdStatus1) s =
    onEvent .mbox (fun s => reply s.mbox.wq.status s) s := rfl

theorem exec_wrConfig (w : Word) : exec (.wrConfig w) s =
    onEvent .mbox (fun s => mboxRecompute { s with mbox := { s.mbox with configIrqEn := configField w } }) s := rfl

theorem exec_wrPush (r : Fin 4) (w : Word) : exec (.wrPush r w) s =
    onEvent .mbox (fun s =>
      unlessStopped .mbox mboxRecompute
        (if s.mbox.wq.isFull then logDiag .mbox .mboxWqFull (pushOffset r) w s
         else if 8 < pushChannelField w then logDiag .mbox .mboxInvalidChannel (pushOffset r) w s
         else pushToChannel w s)) s := rfl

theorem exec_rdMboxBad (off : Offset) : exec (.rdMboxBad off) s =
    onEvent .mbox (fun s => reply 0#32 (logDiag .mbox .mboxBadRead off 0#32 s)) s := rfl

theorem exec_wrMboxBad (off : Offset) (w : Word) : exec (.wrMboxBad off w) s =
    onEvent .mbox (logDiag .mbox .mboxBadWrite off w) s := rfl

theorem exec_mboxBadAccess_read (size : AccessSize) (off : Offset) (w : Word) : exec (.mboxBadAccess .read size off w) s =
    onEvent .mbox (fun s => reply 0#32 (logDiag .mbox .badAccess off 0#32 s)) s := rfl

theorem exec_mboxBadAccess_write (size : AccessSize) (off : Offset) (w : Word) : exec (.mboxBadAccess .write size off w) s = onEvent .mbox (logDiag .mbox .badAccess off w) s := rfl

theorem exec_sigLocalIrq (c : Fin 16) (i : Fin 4) (level : Bool) : exec (.sigLocalIrq c i level) s =
    onEvent .router (sigLocalIrq c i level) s := rfl

theorem exec_sigGpuIrq (level : Bool) : exec (.sigGpuIrq level) s =
    onEvent .router (sigGpuIrq level) s := rfl

theorem exec_sigGpuFiq (level : Bool) : exec (.sigGpuFiq level) s =
    onEvent .router (sigGpuFiq level) s := rfl

theorem exec_sigChannelAvailable (ch : Fin 16) (level : Bool) : exec (.sigChannelAvailable ch level) s =
    onEvent .mbox (sigChannel mboxRecompute ch level) s := rfl

theorem exec_resetRouter : exec (.resetRouter) s =
    onEvent .router (updateRouter clearRouter) s := rfl

theorem exec_resetMbox : exec (.resetMbox) s =
    onEvent .mbox (fun s => mboxRecompute { s with mbox := clearMbox s.platform.sentinel s.mbox }) s := rfl

end Sys2Proof.Machine
end

