-- ==== Sys2Proof/Laws/Router.lean ====
section
/-! SUPPORT. What RouterRecompute leaves alone (R120: it writes the snapshots and the lines only), and that it reads nothing it writes. -/

namespace Sys2Proof.Machine

variable (r : Router)

/-- `q` is `r` but for the snapshots and the lines. -/
abbrev SameInputs (r q : Router) : Prop :=
  q = { r with irqSource := q.irqSource, fiqSource := q.fiqSource, irqOut := q.irqOut, fiqOut := q.fiqOut }

theorem SameInputs.trans {r q p : Router} (h : SameInputs r q) (h' : SameInputs q p) : SameInputs r p := by
  rw [SameInputs] at h h' ⊢
  rw [h'] at *
  rw [h]

theorem sameInputs_foldl (l : List Core) (f : Core → Router → Router) (hf : ∀ c r, SameInputs r (f c r)) (r : Router) :
    SameInputs r (l.foldl (fun r c => f c r) r) := by
  induction l generalizing r with
  | nil => rfl
  | cons c l ih => exact (hf c r).trans (ih (f c r))

theorem markSource_sameInputs (a : Bool) (ctrl : BitVec 8) (c : Core) (k n : Nat) : SameInputs r (markSource a ctrl c k n r) := by
  unfold markSource
  split
  · split
    · rfl
    · split <;> rfl
  · rfl

theorem markLocal_sameInputs (c : Core) : SameInputs r (markLocal c r) :=
  sameInputs_foldl allCores (fun i r => markSource (r.localIrqBits[c].getLsbD i.val) r.localRouteCtrl[c] c i.val i.val r)
    (fun _ r => markSource_sameInputs r _ _ _ _ _) r

theorem markMailbox_sameInputs (c : Core) : SameInputs r (markMailbox c r) :=
  sameInputs_foldl allCores (fun j r => markSource (r.mailboxBit c j) r.mailboxRouteCtrl[c] c j.val (4 + j.val) r)
    (fun _ r => markSource_sameInputs r _ _ _ _ _) r

theorem markGpu_sameInputs : SameInputs r (markGpuFiq (markGpuIrq (clearSources r))) := by
  have h₁ : SameInputs r (clearSources r) := rfl
  have h₂ : ∀ q, SameInputs q (markGpuIrq q) := fun q => by unfold markGpuIrq; split <;> rfl
  have h₃ : ∀ q, SameInputs q (markGpuFiq q) := fun q => by unfold markGpuFiq; split <;> rfl
  exact (h₁.trans (h₂ _)).trans (h₃ _)

/-- RouterRecompute writes the snapshots and the lines only (R120). -/
theorem routerRecompute_sameInputs : SameInputs r (routerRecompute r) := by
  unfold routerRecompute
  refine (markGpu_sameInputs r).trans (SameInputs.trans ?_ ?_ (q := allCores.foldl (fun r c => markMailbox c (markLocal c r)) (markGpuFiq (markGpuIrq (clearSources r)))))
  · exact sameInputs_foldl allCores (fun c r => markMailbox c (markLocal c r))
      (fun c r => (markLocal_sameInputs r c).trans (markMailbox_sameInputs _ c)) _
  · exact sameInputs_foldl allCores driveCore (fun _ _ => rfl) _

@[simp] theorem routerRecompute_localIrqBits : (routerRecompute r).localIrqBits = r.localIrqBits := by rw [routerRecompute_sameInputs r]
@[simp] theorem routerRecompute_gpuIrqLevel : (routerRecompute r).gpuIrqLevel = r.gpuIrqLevel := by rw [routerRecompute_sameInputs r]
@[simp] theorem routerRecompute_gpuFiqLevel : (routerRecompute r).gpuFiqLevel = r.gpuFiqLevel := by rw [routerRecompute_sameInputs r]
@[simp] theorem routerRecompute_gpuIrqRoute : (routerRecompute r).gpuIrqRoute = r.gpuIrqRoute := by rw [routerRecompute_sameInputs r]
@[simp] theorem routerRecompute_gpuFiqRoute : (routerRecompute r).gpuFiqRoute = r.gpuFiqRoute := by rw [routerRecompute_sameInputs r]
@[simp] theorem routerRecompute_localRouteCtrl : (routerRecompute r).localRouteCtrl = r.localRouteCtrl := by rw [routerRecompute_sameInputs r]
@[simp] theorem routerRecompute_mailboxRouteCtrl : (routerRecompute r).mailboxRouteCtrl = r.mailboxRouteCtrl := by rw [routerRecompute_sameInputs r]
@[simp] theorem routerRecompute_mboxWord : (routerRecompute r).mboxWord = r.mboxWord := by rw [routerRecompute_sameInputs r]

end Sys2Proof.Machine
end

