-- ==== Sys2Proof/Laws/Mbox.lean ====
section
/-! SUPPORT. Everything a signal, a mailbox-data access, a pass of the scan and MboxRecompute can do (R71, R75, R173): one lemma each, for later proofs to cite. -/

namespace Sys2Proof.Machine

/-! ## Signals -/

/-- From `s` to `t` only what a signal nested in a drain read can change has changed: the router, the channel flags and the fatal flags. -/
abbrev SignalFrame (s t : State) : Prop :=
  t = { s with
    router := t.router, mbox := { s.mbox with channelAvailable := t.mbox.channelAvailable }
    routerFatal := t.routerFatal, mboxFatal := t.mboxFatal }

theorem SignalFrame.trans {s t u : State} (h : SignalFrame s t) (h' : SignalFrame t u) : SignalFrame s u := by
  rw [SignalFrame] at h h' ⊢
  rw [h'] at *
  rw [h]

theorem updateRouter_signalFrame (f : Router → Router) (s : State) : SignalFrame s (updateRouter f s) := by
  unfold SignalFrame updateRouter
  rfl

theorem sigLocalIrq_signalFrame (c : Fin 16) (i : Fin 4) (l : Bool) (s : State) : SignalFrame s (sigLocalIrq c i l s) := by
  unfold sigLocalIrq
  split
  · exact updateRouter_signalFrame _ s
  · rfl

theorem sigChannel_id_signalFrame (ch : Fin 16) (l : Bool) (s : State) : SignalFrame s (sigChannel id ch l s) := by
  unfold sigChannel
  split
  · simp only [id, ite_self]
    unfold SignalFrame setChannel
    rfl
  · rfl

theorem unlessStopped_signalFrame (b : Block) {f : State → State} (h : ∀ s, SignalFrame s (f s)) (s : State) :
    SignalFrame s (unlessStopped b f s) := by
  obtain ⟨-, he⟩ | ⟨-, he⟩ := unlessStopped_cases s b f
  · rw [he]
  · rw [he]
    exact h s

/-- All a signal nested in a drain read can do (R175). -/
theorem deliverInDrain_signalFrame (sig : Signal) (s : State) : SignalFrame s (deliverInDrain sig s) := by
  cases sig with
  | localIrq c i l => exact unlessStopped_signalFrame .router (sigLocalIrq_signalFrame c i l) s
  | gpuIrq l => exact unlessStopped_signalFrame .router (updateRouter_signalFrame _) s
  | gpuFiq l => exact unlessStopped_signalFrame .router (updateRouter_signalFrame _) s
  | channel ch l => exact unlessStopped_signalFrame .mbox (sigChannel_id_signalFrame ch l) s

/-! ## Accesses -/

/-- What holds of the state in which an access is made and is kept by each delivery holds when the access returns. -/
theorem foldl_deliver_induct {P : State → Prop} {deliver : Signal → State → State} (hd : ∀ sig s, P s → P (deliver sig s))
    (l : List Signal) {s : State} (h : P s) : P (l.foldl (fun s sig => deliver sig s) s) := by
  induction l generalizing s with
  | nil => exact h
  | cons sig l ih => exact ih (hd sig s h)

/-- What `useAnswer` establishes and each delivery keeps holds after an access (R71). -/
theorem memAccess_induct {P : State → Prop} {deliver : Signal → State → State} (hd : ∀ sig s, P s → P (deliver sig s))
    (req : MboxRequest) {s : State} (h : P (useAnswer req s)) : P (memAccess deliver req s) :=
  foldl_deliver_induct hd _ h

/-- An access of an environment that delivers nothing is the access alone. -/
theorem memAccess_quiet {deliver : Signal → State → State} {req : MboxRequest} {s : State} (h : (nextAnswer req s).nested = []) :
    memAccess deliver req s = useAnswer req s := by
  simp [memAccess, h]

/-- All an access inside the drain can do (R71, R75, R175). -/
theorem memAccess_drain_frame (req : MboxRequest) (s : State) :
    SignalFrame (useAnswer req s) (memAccess deliverInDrain req s) :=
  memAccess_induct (P := fun t => SignalFrame (useAnswer req s) t)
    (fun sig t h => h.trans (deliverInDrain_signalFrame sig t)) req rfl

/-! ## The queues, as seen from the state -/

theorem pushRq_of_room {v : Word} {s : State} (h : s.mbox.rq.count < 32) :
    pushRq v s = { s with mbox := { s.mbox with rq := s.mbox.rq.push v } } := by
  simp [pushRq, Nat.not_le.mpr h]

theorem pushWq_of_room {v : Word} {s : State} (h : s.mbox.wq.count < 32) :
    pushWq v s = { s with mbox := { s.mbox with wq := s.mbox.wq.push v } } := by
  simp [pushWq, Nat.not_le.mpr h]

theorem pullRq_of_entry {s : State} (h : s.mbox.rq.count ≠ 0) :
    pullRq s = { s with mbox := { s.mbox with rq := s.mbox.rq.pull s.platform.sentinel } } := by
  simp [pullRq, h]

/-! ## The drain -/

/-- From `s` to `t` only what a drain can change has changed. -/
abbrev DrainFrame (s t : State) : Prop :=
  t = { s with
    router := t.router, mbox := { s.mbox with rq := t.mbox.rq, channelAvailable := t.mbox.channelAvailable }
    routerFatal := t.routerFatal, mboxFatal := t.mboxFatal, envAnswers := t.envAnswers, mboxHistory := t.mboxHistory }

theorem DrainFrame.trans {s t u : State} (h : DrainFrame s t) (h' : DrainFrame t u) : DrainFrame s u := by
  rw [DrainFrame] at h h' ⊢
  rw [h'] at *
  rw [h]

theorem SignalFrame.drain {s t : State} (h : SignalFrame s t) : DrainFrame s t := by
  rw [DrainFrame]
  rw [SignalFrame] at h
  rw [h]

theorem memAccess_drainFrame (req : MboxRequest) (s : State) : DrainFrame s (memAccess deliverInDrain req s) :=
  DrainFrame.trans (t := useAnswer req s) rfl (memAccess_drain_frame req s).drain

theorem pushRq_drainFrame (v : Word) (s : State) : DrainFrame s (pushRq v s) := by
  unfold pushRq
  split <;> rfl

/-- The scan passes over a channel that is not available and makes no access for it (R173). -/
theorem drainScan_unavailable {ch : Channel} (rest : List Channel) {s : State} (h : s.mbox.channelAvailable[ch] = false) :
    drainScan (ch :: rest) s = drainScan rest s := by
  rw [drainScan]
  simp [h]

/-- Everything the scan can do at a channel that is available: its payload cell is read, and the block stops, the word read is pushed, or the scan goes on (R173). -/
theorem drainScan_available {ch : Channel} (rest : List Channel) {s : State} (h : s.mbox.channelAvailable[ch] = true) :
    let v := (nextAnswer (.read (payloadAddr ch.val)) s).value
    let m := memAccess deliverInDrain (.read (payloadAddr ch.val)) s
    (m.mboxFatal ≠ none ∧ drainScan (ch :: rest) s = (false, m)) ∨
    (m.mboxFatal = none ∧ v ≠ s.platform.sentinel ∧ drainScan (ch :: rest) s = (true, pushRq v m)) ∨
    (m.mboxFatal = none ∧ v = s.platform.sentinel ∧ drainScan (ch :: rest) s = drainScan rest m) := by
  intro v m
  have hp : m.platform = s.platform := by
    have hf := memAccess_drainFrame (.read (payloadAddr ch.val)) s
    rw [DrainFrame] at hf
    simp only [m]
    rw [hf]
  rw [drainScan, if_pos h]
  cases hm : m.mboxFatal with
  | some k => exact .inl ⟨by simp, by simp [m, hm]⟩
  | none =>
    by_cases hv : v = s.platform.sentinel
    · exact .inr (.inr ⟨rfl, hv, by simp [m, v, hm, hp, hv]⟩)
    · exact .inr (.inl ⟨rfl, hv, by simp [m, v, hm, hp, hv]⟩)

/-- All a pass of the scan can change (R173). -/
theorem drainScan_frame (chs : List Channel) (s : State) : DrainFrame s (drainScan chs s).2 := by
  induction chs generalizing s with
  | nil => rfl
  | cons ch rest ih =>
    have ha := memAccess_drainFrame (.read (payloadAddr ch.val)) s
    unfold drainScan
    split
    · dsimp only
      split
      · exact ha
      · split
        · exact ha.trans (pushRq_drainFrame _ _)
        · exact ha.trans (ih _)
    · exact ih s

/-- All the drain loop can change (R173). -/
theorem drainLoop_frame (n : Nat) (s : State) : DrainFrame s (drainLoop n s) := by
  induction n generalizing s with
  | zero => rfl
  | succ n ih =>
    have hs := drainScan_frame allChannels s
    unfold drainLoop
    split
    · rfl
    · split
      · next s' h =>
        rw [h] at hs
        split
        · exact hs
        · exact hs.trans (ih s')
      · next s' h =>
        rw [h] at hs
        exact hs

/-- What each access, each nested signal and each push to `rq` keeps, a pass of the scan keeps. -/
theorem drainScan_induct {P : State → Prop} (ha : ∀ req s, P s → P (useAnswer req s)) (hd : ∀ sig s, P s → P (deliverInDrain sig s))
    (hp : ∀ v s, P s → P (pushRq v s)) (chs : List Channel) {s : State} (h : P s) : P (drainScan chs s).2 := by
  induction chs generalizing s with
  | nil => exact h
  | cons ch rest ih =>
    have hm : P (memAccess deliverInDrain (.read (payloadAddr ch.val)) s) := memAccess_induct hd _ (ha _ _ h)
    unfold drainScan
    split
    · dsimp only
      split
      · exact hm
      · split
        · exact hp _ _ hm
        · exact ih hm
    · exact ih h

/-- What each access, each nested signal and each push to `rq` keeps, the drain loop keeps. -/
theorem drainLoop_induct {P : State → Prop} (ha : ∀ req s, P s → P (useAnswer req s)) (hd : ∀ sig s, P s → P (deliverInDrain sig s))
    (hp : ∀ v s, P s → P (pushRq v s)) (n : Nat) {s : State} (h : P s) : P (drainLoop n s) := by
  induction n generalizing s with
  | zero => exact h
  | succ n ih =>
    have hs := drainScan_induct ha hd hp allChannels h
    unfold drainLoop
    split
    · exact h
    · split
      · next s' hq =>
        rw [hq] at hs
        split
        · exact hs
        · exact ih hs
      · next s' hq =>
        rw [hq] at hs
        exact hs

/-! ## MboxRecompute -/

/-- Everything MboxRecompute can do: the block stops inside the drain, or the guard is cleared and the line driven (R173, R177). -/
theorem mboxRecompute_cases (s : State) :
    let d := drainLoop drainPasses (setGuard true s)
    (d.mboxFatal ≠ none ∧ mboxRecompute s = d) ∨ (d.mboxFatal = none ∧ mboxRecompute s = driveMboxIrq (setGuard false d)) := by
  intro d
  unfold mboxRecompute unlessStopped
  cases h : d.mboxFatal <;> simp [d, h] at *

/-- From `s` to `t` only what MboxRecompute can change has changed. -/
abbrev RecomputeFrame (s t : State) : Prop :=
  t = { s with
    router := t.router
    mbox := { s.mbox with
      rq := t.mbox.rq, channelAvailable := t.mbox.channelAvailable
      updateInProgress := t.mbox.updateInProgress, mboxIrqOut := t.mbox.mboxIrqOut }
    routerFatal := t.routerFatal, mboxFatal := t.mboxFatal, envAnswers := t.envAnswers, mboxHistory := t.mboxHistory }

theorem RecomputeFrame.trans {s t u : State} (h : RecomputeFrame s t) (h' : RecomputeFrame t u) : RecomputeFrame s u := by
  rw [RecomputeFrame] at h h' ⊢
  rw [h'] at *
  rw [h]

/-- All MboxRecompute can change (R173). -/
theorem mboxRecompute_frame (s : State) : RecomputeFrame s (mboxRecompute s) := by
  have hd := drainLoop_frame drainPasses (setGuard true s)
  rw [DrainFrame] at hd
  have h0 : RecomputeFrame s (drainLoop drainPasses (setGuard true s)) := by
    rw [RecomputeFrame]
    rw [hd]
    rfl
  obtain ⟨-, h⟩ | ⟨-, h⟩ := mboxRecompute_cases s
  · rw [h]; exact h0
  · rw [h]
    exact h0.trans rfl

theorem drainScan_no_channel (chs : List Channel) {s : State} (h : ∀ ch : Channel, s.mbox.channelAvailable[ch] = false) :
    drainScan chs s = (false, s) := by
  induction chs with
  | nil => rfl
  | cons ch rest ih =>
    have := h ch
    unfold drainScan
    simp only [this, Bool.false_eq_true, if_false, ih]

/-- With no channel available the drain reads nothing and changes nothing (R173). -/
theorem drainLoop_no_channel (n : Nat) {s : State} (h : ∀ ch : Channel, s.mbox.channelAvailable[ch] = false) :
    drainLoop n s = s := by
  cases n with
  | zero => rfl
  | succ n =>
    unfold drainLoop
    rw [drainScan_no_channel allChannels h]
    split <;> rfl

end Sys2Proof.Machine
end

