-- ==== Sys2Proof/Laws/PerInstr.lean ====
section
/-! SUPPORT. Statements about every instruction, one lemma per constructor: the key an instruction encodes to fits a row of spec/opcode_table.json that has the instruction's mnemonic. -/

namespace Sys2Proof.Laws.TableRow

set_option Elab.async false

/-- The key of a well-formed instruction fits an opcode-table row with its mnemonic. -/
def Statement (i : Instr) : Prop :=
  i.wf = true → ∃ row ∈ opcodeTable, rowMatches (encode i).key row = true ∧ row.mnemonic = i.mnemonic

/-- A row of one part of the table is a row of the table. -/
theorem of_part {k : Key} {m : Mnemonic} (part : List OpcodeRow) (hp : part ⊆ opcodeTable)
    (h : (part.any fun row => rowMatches k row && row.mnemonic == m) = true) :
    ∃ row ∈ opcodeTable, rowMatches k row = true ∧ row.mnemonic = m := by
  obtain ⟨row, hr, hm⟩ := List.any_eq_true.mp h
  simp only [Bool.and_eq_true, beq_iff_eq] at hm
  exact ⟨row, hp hr, hm.1, hm.2⟩

theorem routerReads_sub : opcodeRowsRouterReads ⊆ opcodeTable := by decide +kernel
theorem routerWrites_sub : opcodeRowsRouterWrites ⊆ opcodeTable := by decide +kernel
theorem mboxReads_sub : opcodeRowsMboxReads ⊆ opcodeTable := by decide +kernel
theorem mboxWrites_sub : opcodeRowsMboxWrites ⊆ opcodeTable := by decide +kernel
theorem rejectedReads_sub : opcodeRowsRejectedReads ⊆ opcodeTable := by decide +kernel
theorem rejectedWrites_sub : opcodeRowsRejectedWrites ⊆ opcodeTable := by decide +kernel
theorem signals_sub : opcodeRowsSignals ⊆ opcodeTable := by decide +kernel
theorem reservedA_sub : opcodeRowsReservedA ⊆ opcodeTable := by decide +kernel
theorem reservedB_sub : opcodeRowsReservedB ⊆ opcodeTable := by decide +kernel
theorem resets_sub : opcodeRowsResets ⊆ opcodeTable := by decide +kernel

theorem rdGpuRoute : Statement (.rdGpuRoute) := fun _ =>
  of_part opcodeRowsRouterReads routerReads_sub (show (opcodeRowsRouterReads.any fun row => rowMatches (encode (.rdGpuRoute)).key row && row.mnemonic == .RD_GPU_ROUTE) = true by decide +kernel)

theorem wrGpuRoute (w : Word) : Statement (.wrGpuRoute w) := fun _ =>
  of_part opcodeRowsRouterWrites routerWrites_sub (show (opcodeRowsRouterWrites.any fun row => rowMatches (encode (.wrGpuRoute 0#32)).key row && row.mnemonic == .WR_GPU_ROUTE) = true by decide +kernel)

theorem rdLocalRouteCtrl (c : Core) : Statement (.rdLocalRouteCtrl c) := fun _ =>
  have h : ∀ (c : Core), (opcodeRowsRouterReads.any fun row => rowMatches (encode (.rdLocalRouteCtrl c)).key row && row.mnemonic == .RD_LOCAL_ROUTE_CTRL) = true := by decide +kernel
  of_part opcodeRowsRouterReads routerReads_sub (h c)

theorem wrLocalRouteCtrl (c : Core) (w : Word) : Statement (.wrLocalRouteCtrl c w) := fun _ =>
  have h : ∀ (c : Core), (opcodeRowsRouterWrites.any fun row => rowMatches (encode (.wrLocalRouteCtrl c 0#32)).key row && row.mnemonic == .WR_LOCAL_ROUTE_CTRL) = true := by decide +kernel
  of_part opcodeRowsRouterWrites routerWrites_sub (h c)

theorem rdMboxRouteCtrl (c : Core) : Statement (.rdMboxRouteCtrl c) := fun _ =>
  have h : ∀ (c : Core), (opcodeRowsRouterReads.any fun row => rowMatches (encode (.rdMboxRouteCtrl c)).key row && row.mnemonic == .RD_MBOX_ROUTE_CTRL) = true := by decide +kernel
  of_part opcodeRowsRouterReads routerReads_sub (h c)

theorem wrMboxRouteCtrl (c : Core) (w : Word) : Statement (.wrMboxRouteCtrl c w) := fun _ =>
  have h : ∀ (c : Core), (opcodeRowsRouterWrites.any fun row => rowMatches (encode (.wrMboxRouteCtrl c 0#32)).key row && row.mnemonic == .WR_MBOX_ROUTE_CTRL) = true := by decide +kernel
  of_part opcodeRowsRouterWrites routerWrites_sub (h c)

theorem rdIrqSource (c : Core) : Statement (.rdIrqSource c) := fun _ =>
  have h : ∀ (c : Core), (opcodeRowsRouterReads.any fun row => rowMatches (encode (.rdIrqSource c)).key row && row.mnemonic == .RD_IRQ_SOURCE) = true := by decide +kernel
  of_part opcodeRowsRouterReads routerReads_sub (h c)

theorem rdFiqSource (c : Core) : Statement (.rdFiqSource c) := fun _ =>
  have h : ∀ (c : Core), (opcodeRowsRouterReads.any fun row => rowMatches (encode (.rdFiqSource c)).key row && row.mnemonic == .RD_FIQ_SOURCE) = true := by decide +kernel
  of_part opcodeRowsRouterReads routerReads_sub (h c)

theorem wrMboxSet (m : MboxIndex) (w : Word) : Statement (.wrMboxSet m w) := fun _ =>
  have h : ∀ (m : MboxIndex), (opcodeRowsRouterWrites.any fun row => rowMatches (encode (.wrMboxSet m 0#32)).key row && row.mnemonic == .WR_MBOX_SET) = true := by decide +kernel
  of_part opcodeRowsRouterWrites routerWrites_sub (h m)

theorem rdMbox (m : MboxIndex) : Statement (.rdMbox m) := fun _ =>
  have h : ∀ (m : MboxIndex), (opcodeRowsRouterReads.any fun row => rowMatches (encode (.rdMbox m)).key row && row.mnemonic == .RD_MBOX) = true := by decide +kernel
  of_part opcodeRowsRouterReads routerReads_sub (h m)

theorem wrMboxClr (m : MboxIndex) (w : Word) : Statement (.wrMboxClr m w) := fun _ =>
  have h : ∀ (m : MboxIndex), (opcodeRowsRouterWrites.any fun row => rowMatches (encode (.wrMboxClr m 0#32)).key row && row.mnemonic == .WR_MBOX_CLR) = true := by decide +kernel
  of_part opcodeRowsRouterWrites routerWrites_sub (h m)

theorem rdRouterBad (off : Offset) : Statement (.rdRouterBad off) := fun hw =>
  have h : ∀ off : Offset, (aligned off && routerReadBad off) = true →
      (opcodeRowsRouterReads.any fun row => rowMatches (encode (.rdRouterBad off)).key row && row.mnemonic == .RD_ROUTER_BAD) = true := by decide +kernel
  of_part opcodeRowsRouterReads routerReads_sub (h off hw)

theorem wrRouterBad (off : Offset) (w : Word) : Statement (.wrRouterBad off w) := fun hw =>
  have h : ∀ off : Offset, (aligned off && routerWriteBad off) = true →
      (opcodeRowsRouterWrites.any fun row => rowMatches (encode (.wrRouterBad off 0#32)).key row && row.mnemonic == .WR_ROUTER_BAD) = true := by decide +kernel
  of_part opcodeRowsRouterWrites routerWrites_sub (h off hw)

/-- A rejected read: every size and offset that is not admitted. -/
theorem routerBadAccess_read (size : AccessSize) (off : Offset) (w : Word) : admitted size off = false →
    (opcodeRowsRejectedReads.any fun row => rowMatches (encode (.routerBadAccess .read size off w)).key row && row.mnemonic == .ROUTER_BAD_ACCESS) = true := by
  have h : ∀ off : Offset, (List.all [AccessSize.one, .two, .four, .eight] fun size => admitted size off ||
      opcodeRowsRejectedReads.any fun row => rowMatches (encode (.routerBadAccess .read size off 0#32)).key row && row.mnemonic == .ROUTER_BAD_ACCESS) = true := by decide +kernel
  intro ha
  have hs := List.all_eq_true.mp (h off) size (by cases size <;> simp)
  rw [ha, Bool.false_or] at hs
  exact hs

/-- A rejected write: every size and offset that is not admitted. -/
theorem routerBadAccess_write (size : AccessSize) (off : Offset) (w : Word) : admitted size off = false →
    (opcodeRowsRejectedWrites.any fun row => rowMatches (encode (.routerBadAccess .write size off w)).key row && row.mnemonic == .ROUTER_BAD_ACCESS) = true := by
  have h : ∀ off : Offset, (List.all [AccessSize.one, .two, .four, .eight] fun size => admitted size off ||
      opcodeRowsRejectedWrites.any fun row => rowMatches (encode (.routerBadAccess .write size off 0#32)).key row && row.mnemonic == .ROUTER_BAD_ACCESS) = true := by decide +kernel
  intro ha
  have hs := List.all_eq_true.mp (h off) size (by cases size <;> simp)
  rw [ha, Bool.false_or] at hs
  exact hs

theorem routerBadAccess (kind : BusKind) (size : AccessSize) (off : Offset) (w : Word) : Statement (.routerBadAccess kind size off w) := by
  intro hw
  simp only [Instr.wf, rejectedAccess, Bool.and_eq_true, Bool.not_eq_true'] at hw
  cases kind
  · exact of_part _ rejectedReads_sub (routerBadAccess_read size off w hw.1)
  · exact of_part _ rejectedWrites_sub (routerBadAccess_write size off w hw.1)

theorem rdPop (r : Fin 4) : Statement (.rdPop r) := fun _ =>
  have h : ∀ (r : Fin 4), (opcodeRowsMboxReads.any fun row => rowMatches (encode (.rdPop r)).key row && row.mnemonic == .RD_POP) = true := by decide +kernel
  of_part opcodeRowsMboxReads mboxReads_sub (h r)

theorem rdPeek : Statement (.rdPeek) := fun _ =>
  of_part opcodeRowsMboxReads mboxReads_sub (show (opcodeRowsMboxReads.any fun row => rowMatches (encode (.rdPeek)).key row && row.mnemonic == .RD_PEEK) = true by decide +kernel)

theorem rdSender : Statement (.rdSender) := fun _ =>
  of_part opcodeRowsMboxReads mboxReads_sub (show (opcodeRowsMboxReads.any fun row => rowMatches (encode (.rdSender)).key row && row.mnemonic == .RD_SENDER) = true by decide +kernel)

theorem rdStatus0 : Statement (.rdStatus0) := fun _ =>
  of_part opcodeRowsMboxReads mboxReads_sub (show (opcodeRowsMboxReads.any fun row => rowMatches (encode (.rdStatus0)).key row && row.mnemonic == .RD_STATUS0) = true by decide +kernel)

theorem rdConfig : Statement (.rdConfig) := fun _ =>
  of_part opcodeRowsMboxReads mboxReads_sub (show (opcodeRowsMboxReads.any fun row => rowMatches (encode (.rdConfig)).key row && row.mnemonic == .RD_CONFIG) = true by decide +kernel)

theorem rdStatus1 : Statement (.rdStatus1) := fun _ =>
  of_part opcodeRowsMboxReads mboxReads_sub (show (opcodeRowsMboxReads.any fun row => rowMatches (encode (.rdStatus1)).key row && row.mnemonic == .RD_STATUS1) = true by decide +kernel)

theorem wrConfig (w : Word) : Statement (.wrConfig w) := fun _ =>
  of_part opcodeRowsMboxWrites mboxWrites_sub (show (opcodeRowsMboxWrites.any fun row => rowMatches (encode (.wrConfig 0#32)).key row && row.mnemonic == .WR_CONFIG) = true by decide +kernel)

theorem wrPush (r : Fin 4) (w : Word) : Statement (.wrPush r w) := fun _ =>
  have h : ∀ (r : Fin 4), (opcodeRowsMboxWrites.any fun row => rowMatches (encode (.wrPush r 0#32)).key row && row.mnemonic == .WR_PUSH) = true := by decide +kernel
  of_part opcodeRowsMboxWrites mboxWrites_sub (h r)

theorem rdMboxBad (off : Offset) : Statement (.rdMboxBad off) := fun hw =>
  have h : ∀ off : Offset, (aligned off && mboxReadBad off) = true →
      (opcodeRowsMboxReads.any fun row => rowMatches (encode (.rdMboxBad off)).key row && row.mnemonic == .RD_MBOX_BAD) = true := by decide +kernel
  of_part opcodeRowsMboxReads mboxReads_sub (h off hw)

theorem wrMboxBad (off : Offset) (w : Word) : Statement (.wrMboxBad off w) := fun hw =>
  have h : ∀ off : Offset, (aligned off && mboxWriteBad off) = true →
      (opcodeRowsMboxWrites.any fun row => rowMatches (encode (.wrMboxBad off 0#32)).key row && row.mnemonic == .WR_MBOX_BAD) = true := by decide +kernel
  of_part opcodeRowsMboxWrites mboxWrites_sub (h off hw)

/-- A rejected read: every size and offset that is not admitted. -/
theorem mboxBadAccess_read (size : AccessSize) (off : Offset) (w : Word) : admitted size off = false →
    (opcodeRowsRejectedReads.any fun row => rowMatches (encode (.mboxBadAccess .read size off w)).key row && row.mnemonic == .MBOX_BAD_ACCESS) = true := by
  have h : ∀ off : Offset, (List.all [AccessSize.one, .two, .four, .eight] fun size => admitted size off ||
      opcodeRowsRejectedReads.any fun row => rowMatches (encode (.mboxBadAccess .read size off 0#32)).key row && row.mnemonic == .MBOX_BAD_ACCESS) = true := by decide +kernel
  intro ha
  have hs := List.all_eq_true.mp (h off) size (by cases size <;> simp)
  rw [ha, Bool.false_or] at hs
  exact hs

/-- A rejected write: every size and offset that is not admitted. -/
theorem mboxBadAccess_write (size : AccessSize) (off : Offset) (w : Word) : admitted size off = false →
    (opcodeRowsRejectedWrites.any fun row => rowMatches (encode (.mboxBadAccess .write size off w)).key row && row.mnemonic == .MBOX_BAD_ACCESS) = true := by
  have h : ∀ off : Offset, (List.all [AccessSize.one, .two, .four, .eight] fun size => admitted size off ||
      opcodeRowsRejectedWrites.any fun row => rowMatches (encode (.mboxBadAccess .write size off 0#32)).key row && row.mnemonic == .MBOX_BAD_ACCESS) = true := by decide +kernel
  intro ha
  have hs := List.all_eq_true.mp (h off) size (by cases size <;> simp)
  rw [ha, Bool.false_or] at hs
  exact hs

theorem mboxBadAccess (kind : BusKind) (size : AccessSize) (off : Offset) (w : Word) : Statement (.mboxBadAccess kind size off w) := by
  intro hw
  simp only [Instr.wf, rejectedAccess, Bool.and_eq_true, Bool.not_eq_true'] at hw
  cases kind
  · exact of_part _ rejectedReads_sub (mboxBadAccess_read size off w hw.1)
  · exact of_part _ rejectedWrites_sub (mboxBadAccess_write size off w hw.1)

theorem sigLocalIrq (c : Fin 16) (i : Fin 4) (level : Bool) : Statement (.sigLocalIrq c i level) := fun _ =>
  have h : ∀ (c : Fin 16) (i : Fin 4) (level : Bool), (opcodeRowsSignals.any fun row => rowMatches (encode (.sigLocalIrq c i level)).key row && row.mnemonic == .SIG_LOCAL_IRQ) = true := by decide +kernel
  of_part opcodeRowsSignals signals_sub (h c i level)

theorem sigGpuIrq (level : Bool) : Statement (.sigGpuIrq level) := fun _ =>
  have h : ∀ (level : Bool), (opcodeRowsSignals.any fun row => rowMatches (encode (.sigGpuIrq level)).key row && row.mnemonic == .SIG_GPU_IRQ) = true := by decide +kernel
  of_part opcodeRowsSignals signals_sub (h level)

theorem sigGpuFiq (level : Bool) : Statement (.sigGpuFiq level) := fun _ =>
  have h : ∀ (level : Bool), (opcodeRowsSignals.any fun row => rowMatches (encode (.sigGpuFiq level)).key row && row.mnemonic == .SIG_GPU_FIQ) = true := by decide +kernel
  of_part opcodeRowsSignals signals_sub (h level)

theorem sigChannelAvailable (ch : Fin 16) (level : Bool) : Statement (.sigChannelAvailable ch level) := fun _ =>
  have h : ∀ (ch : Fin 16) (level : Bool), (opcodeRowsSignals.any fun row => rowMatches (encode (.sigChannelAvailable ch level)).key row && row.mnemonic == .SIG_CHANNEL_AVAILABLE) = true := by decide +kernel
  of_part opcodeRowsSignals signals_sub (h ch level)

theorem resetRouter : Statement (.resetRouter) := fun _ =>
  of_part opcodeRowsResets resets_sub (show (opcodeRowsResets.any fun row => rowMatches (encode (.resetRouter)).key row && row.mnemonic == .RESET_ROUTER) = true by decide +kernel)

theorem resetMbox : Statement (.resetMbox) := fun _ =>
  of_part opcodeRowsResets resets_sub (show (opcodeRowsResets.any fun row => rowMatches (encode (.resetMbox)).key row && row.mnemonic == .RESET_MBOX) = true by decide +kernel)

/-! ### Reserved keys: by the lowest bit that makes the key reserved (R94) -/

/-- A key fits a row when it has the row's value on the bits of the row's mask. -/
theorem fits (k v m : Key) (n : Mnemonic) (hv : (v &&& m) = v) (h : ∀ i : Fin 16, m.getLsbD i.val = true → k.getLsbD i.val = v.getLsbD i.val) :
    rowMatches k ⟨v, m, n⟩ = true := by
  have : k &&& m = v := by
    apply BitVec.eq_of_getLsbD_eq
    intro i hi
    have hb := congrArg (fun x : Key => x.getLsbD i) hv
    simp only [BitVec.getLsbD_and] at hb ⊢
    cases hm : m.getLsbD i
    · rw [hm] at hb
      simpa using hb
    · rw [h ⟨i, hi⟩ hm]
      simp
  simp [rowMatches, this]

/-- The row of a class for the lowest set bit `n` from bit `lo` on: its value. -/
def lowValue (base : Key) (n : Nat) : Key := base ||| 1#16 <<< n

/-- The row of a class for the lowest set bit `n` from bit `lo` on: its mask. -/
def lowMask (hi : Key) (lo n : Nat) : Key := hi ||| (1#16 <<< (n + 1) - 1#16 <<< lo)

/-- A class of keys whose rows are those of its lowest set bit, from `lo` to below `top`: the rows stand in the table and say no more than that. -/
def LowRows (base hi : Key) (lo top : Nat) : Prop :=
  ∀ n : Fin 16, lo ≤ n.val → n.val < top →
    (⟨lowValue base n.val, lowMask hi lo n.val, .RESERVED_KEY⟩ : OpcodeRow) ∈ opcodeTable ∧
    (lowValue base n.val &&& lowMask hi lo n.val) = lowValue base n.val ∧
    ∀ i : Fin 16, (lowMask hi lo n.val).getLsbD i.val = true →
      (hi.getLsbD i.val = true ∧ (lowValue base n.val).getLsbD i.val = base.getLsbD i.val) ∨
      (lo ≤ i.val ∧ i.val < n.val ∧ (lowValue base n.val).getLsbD i.val = false) ∨
      (i = n ∧ (lowValue base n.val).getLsbD i.val = true)

/-- A key of such a class with some bit set from `lo` to below `top` fits a reserved row. -/
theorem reserved_low {k base hi : Key} {lo top : Nat} (htop : top ≤ 16) (hrows : LowRows base hi lo top) (hk : k &&& hi = base)
    (h : ∃ n, lo ≤ n ∧ n < top ∧ k.getLsbD n = true) : ∃ row ∈ opcodeTable, rowMatches k row = true ∧ row.mnemonic = .RESERVED_KEY := by
  classical
  have hn := Nat.find_spec h
  have hmin := fun m => Nat.find_min h (m := m)
  generalize Nat.find h = n at hn hmin
  obtain ⟨hlo, hlt, hbit⟩ := hn
  obtain ⟨hr, hv, hm⟩ := hrows ⟨n, by omega⟩ hlo hlt
  refine ⟨_, hr, fits k _ _ _ hv ?_, rfl⟩
  intro i hi'
  rcases hm i hi' with ⟨h1, h2⟩ | ⟨h1, h2, h3⟩ | ⟨rfl, h2⟩
  · rw [h2, ← hk]
    simp [h1]
  · rw [h3]
    have := hmin i.val h2
    simp only [h1, true_and, not_and, Bool.not_eq_true] at this
    exact this (by dsimp only at h2; omega)
  · rw [h2]
    exact hbit

/-- A field that is not zero has a bit set. -/
theorem field_bit {k : Key} {lo len : Nat} (h : k.extractLsb' lo len ≠ 0#len) : ∃ n, lo ≤ n ∧ n < lo + len ∧ k.getLsbD n = true := by
  by_contra hc
  apply h
  apply BitVec.eq_of_getLsbD_eq
  intro i hi
  have := not_exists.mp hc (lo + i)
  simp only [hi, Nat.le_add_right, Nat.add_lt_add_iff_left, true_and, Bool.not_eq_true] at this
  simp [hi, this]

/-- The high bits of a key, as a mask sees them. -/
theorem and_of_field {k : Key} {lo len : Nat} {x : BitVec len} (hl : lo + len = 16) (h : k.extractLsb' lo len = x) :
    k &&& (BitVec.allOnes len).setWidth 16 <<< lo = x.setWidth 16 <<< lo := by
  subst h
  apply BitVec.eq_of_getLsbD_eq
  intro i hi
  by_cases hlt : i < lo
  · simp [hi, hlt]
  · have : i - lo < len := by omega
    have e : lo + (i - lo) = i := by omega
    simp [hi, hlt, this, e]

theorem bus_rows : LowRows 0#16 0x8000#16 8 11 := by unfold LowRows; decide +kernel
theorem local_rows : LowRows 0x8000#16 0xFC00#16 1 4 := by unfold LowRows; decide +kernel
theorem gpuIrq_rows : LowRows 0x8400#16 0xFC00#16 1 10 := by unfold LowRows; decide +kernel
theorem gpuFiq_rows : LowRows 0x8800#16 0xFC00#16 1 10 := by unfold LowRows; decide +kernel
theorem channel_rows : LowRows 0x8C00#16 0xFC00#16 1 6 := by unfold LowRows; decide +kernel
theorem reset_rows : LowRows 0xC000#16 0xC000#16 0 13 := by unfold LowRows; decide +kernel

/-- The tag field of a key. -/
theorem tag_field {k : Key} {x : BitVec 2} (h : k.extractLsb' 14 2 = x) : k &&& 0xC000#16 = x.setWidth 16 <<< 14 :=
  and_of_field (lo := 14) (len := 2) rfl h

/-- A signal key of a class from 4 on. -/
theorem reserved_class {k : Key} (ht : k &&& 0xC000#16 = 0x8000#16) (hc : k.getLsbD 12 = true ∨ k.getLsbD 13 = true) :
    ∃ row ∈ opcodeTable, rowMatches k row = true ∧ row.mnemonic = .RESERVED_KEY := by
  have h14 := congrArg (fun x : Key => x.getLsbD 14) ht
  have h15 := congrArg (fun x : Key => x.getLsbD 15) ht
  simp only [BitVec.getLsbD_and] at h14 h15
  have h14 : k.getLsbD 14 = false := by simpa using h14
  have h15 : k.getLsbD 15 = true := by simpa using h15
  cases h13 : k.getLsbD 13
  · have h12 : k.getLsbD 12 = true := hc.resolve_right (by rw [h13]; exact Bool.false_ne_true)
    refine ⟨⟨0x9000#16, 0xF000#16, .RESERVED_KEY⟩, by decide +kernel, fits _ _ _ _ (by decide) ?_, rfl⟩
    intro i hi
    have : i = 12 ∨ i = 13 ∨ i = 14 ∨ i = 15 := by revert i; decide
    rcases this with rfl | rfl | rfl | rfl
    · exact h12
    · exact h13
    · exact h14
    · exact h15
  · refine ⟨⟨0xA000#16, 0xE000#16, .RESERVED_KEY⟩, by decide +kernel, fits _ _ _ _ (by decide) ?_, rfl⟩
    intro i hi
    have : i = 13 ∨ i = 14 ∨ i = 15 := by revert i; decide
    rcases this with rfl | rfl | rfl
    · exact h13
    · exact h14
    · exact h15

/-- The class field of a signal key, with the tag, as one field. -/
theorem class_field {k : Key} {c : BitVec 4} (ht : k.extractLsb' 14 2 = 0b10#2) (hc : k.extractLsb' 10 4 = c) :
    k &&& 0xFC00#16 = 0x8000#16 ||| c.setWidth 16 <<< 10 := by
  have h1 : k &&& 0xC000#16 = 0x8000#16 := (tag_field ht).trans (by decide)
  subst hc
  apply BitVec.eq_of_getLsbD_eq
  intro i hi
  have hb := congrArg (fun x : Key => x.getLsbD i) h1
  simp only [BitVec.getLsbD_and] at hb
  interval_cases i <;> simp_all

theorem class_big : ∀ cls : BitVec 4, 4 ≤ cls.toNat → cls.getLsbD 2 = true ∨ cls.getLsbD 3 = true := by decide
theorem class_small : ∀ cls : BitVec 4, ¬4 ≤ cls.toNat → cls = 0#4 ∨ cls = 1#4 ∨ cls = 2#4 ∨ cls = 3#4 := by decide
theorem tag_bus : ∀ tag : BitVec 2, ¬(tag == 0b11#2) = true → ¬(tag == 0b10#2) = true → tag.getLsbD 1 = false := by decide

theorem reservedKey (key : Key) : Statement (.reservedKey key) := by
  intro hw
  change isReservedKey key = true at hw
  show ∃ row ∈ opcodeTable, rowMatches key row = true ∧ row.mnemonic = .RESERVED_KEY
  unfold isReservedKey at hw
  dsimp only at hw
  split at hw
  · next ht =>
    obtain ⟨n, h0, h1, hb⟩ := field_bit (bne_iff_ne.mp hw)
    exact reserved_low (by decide) reset_rows ((tag_field (beq_iff_eq.mp ht)).trans (by decide)) ⟨n, h0, by omega, hb⟩
  · next h3 =>
    split at hw
    · next ht =>
      have ht := beq_iff_eq.mp ht
      generalize hc : key.extractLsb' 10 4 = cls at hw
      have hf := class_field ht hc
      simp only [Bool.or_eq_true, Bool.and_eq_true, bne_iff_ne, beq_iff_eq, ne_eq] at hw
      have bit : ∀ lo len top, key.extractLsb' lo len ≠ 0#len → 1 ≤ lo → lo + len ≤ top → ∃ n, 1 ≤ n ∧ n < top ∧ key.getLsbD n = true := by
        intro lo len top h h1 h2
        obtain ⟨n, a, b, c⟩ := field_bit h
        exact ⟨n, by omega, by omega, c⟩
      by_cases h4 : 4 ≤ cls.toNat
      · refine reserved_class ((tag_field ht).trans (by decide)) ?_
        have e12 : key.getLsbD 12 = cls.getLsbD 2 := by rw [← hc]; simp
        have e13 : key.getLsbD 13 = cls.getLsbD 3 := by rw [← hc]; simp
        rw [e12, e13]
        exact class_big cls h4
      · have hb : Nat.ble 4 cls.toNat = true ↔ False := by simp; omega
        rw [hb] at hw
        have hcases : cls = 0#4 ∨ cls = 1#4 ∨ cls = 2#4 ∨ cls = 3#4 := class_small cls h4
        rcases hcases with rfl | rfl | rfl | rfl
        · refine reserved_low (by decide) local_rows (hf.trans (by decide)) (bit 1 3 4 ?_ (by decide) (by decide))
          simpa using hw
        · refine reserved_low (by decide) gpuIrq_rows (hf.trans (by decide)) ?_
          rcases hw with ((h | h) | h) | h
          · exact bit 1 3 10 h (by decide) (by decide)
          · exact h.elim
          · exact bit 4 6 10 h.2 (by decide) (by decide)
          · exact absurd h.1 (by decide)
        · refine reserved_low (by decide) gpuFiq_rows (hf.trans (by decide)) ?_
          rcases hw with ((h | h) | h) | h
          · exact bit 1 3 10 h (by decide) (by decide)
          · exact h.elim
          · exact bit 4 6 10 h.2 (by decide) (by decide)
          · exact absurd h.1 (by decide)
        · refine reserved_low (by decide) channel_rows (hf.trans (by decide)) ?_
          rcases hw with ((h | h) | h) | h
          · exact bit 1 3 6 h (by decide) (by decide)
          · exact h.elim
          · exact absurd h.1 (by decide)
          · exact bit 4 2 6 h.2 (by decide) (by decide)
    · next h2 =>
      have h15 : key.getLsbD 15 = false := by
        have e : key.getLsbD 15 = (key.extractLsb' 14 2).getLsbD 1 := by simp
        rw [e]
        exact tag_bus _ h3 h2
      obtain ⟨n, h0, h1, hb⟩ := field_bit (bne_iff_ne.mp hw)
      refine reserved_low (by decide) bus_rows ?_ ⟨n, h0, by omega, hb⟩
      apply BitVec.eq_of_getLsbD_eq
      intro i hi
      rw [BitVec.getLsbD_and]
      by_cases h : i = 15
      · rw [h, h15]
        rfl
      · have hm : (0x8000#16).getLsbD i = false := by interval_cases i <;> first | rfl | exact absurd rfl h
        rw [hm, Bool.and_false]
        simp

end Sys2Proof.Laws.TableRow
end

