-- ==== Sys2Proof/Laws/Snapshot.lean ====
section
/-! SUPPORT. What a restore can do to a block (R57, R233), and what its checks decide. -/

namespace Sys2Proof.Machine

theorem RouterImage.routesValid_iff (g : RouterImage) : g.routesValid = true ↔ g.gpuIrqRoute < 4 ∧ g.gpuFiqRoute < 4 := by
  simp [RouterImage.routesValid]

theorem RouterImage.valid_iff (g : RouterImage) :
    g.valid = true ↔ (g.gpuIrqRoute < 4 ∧ g.gpuFiqRoute < 4) ∧ (loadRouter g).Fresh := by
  rw [RouterImage.valid, Bool.and_eq_true, g.routesValid_iff, beq_iff_eq]

/-- The check of a restore and the invariant of R31 say the same. -/
theorem Queue.valid_iff (sentinel : Word) (q : Queue) : q.valid sentinel = true ↔ q.Ok sentinel := by
  simp only [Queue.valid, Bool.and_eq_true, List.all_eq_true, List.mem_range, Bool.or_eq_true, beq_iff_eq, Nat.ble_eq, Nat.blt_eq]
  refine and_congr_right fun _ => ⟨fun h n hn => ?_, fun h n hn => ?_⟩
  · simpa [slotAt] using (h n.val n.isLt).resolve_left (by omega)
  · by_cases hc : n < q.count
    · exact .inl hc
    · right
      have hs := h ⟨n, hn⟩ (by simpa using hc)
      simp only [Config.qcap] at hn
      simpa [slotAt, hn] using hs

theorem mboxValid_iff (sentinel : Word) (m : Mbox) : mboxValid sentinel m = true ↔ m.rq.Ok sentinel ∧ m.wq.Ok sentinel := by
  rw [mboxValid, Bool.and_eq_true, Queue.valid_iff, Queue.valid_iff]

/-- Everything one block's part of a restore can do: the block had stopped, the image is loaded, or the block stops. -/
theorem restoreBlock_cases (b : Block) (valid : Bool) (load : State → State) (s : State) :
    (stopped b s = true ∧ restoreBlock b valid load s = s) ∨
    (stopped b s = false ∧ valid = true ∧ restoreBlock b valid load s = load s) ∨
    (stopped b s = false ∧ valid = false ∧ restoreBlock b valid load s = raiseFatal b .stateInvariant s) := by
  unfold restoreBlock unlessStopped
  cases stopped b s <;> cases valid <;> simp

@[simp] theorem loadRouter_saveRouter (r : Router) : loadRouter (saveRouter r) = r := by
  cases r
  simp [loadRouter, saveRouter]

end Sys2Proof.Machine
end

