-- ==== Sys2Proof/Tests/Slice0.lean ====
section
/-! SUPPORT. Tests: the well-formedness smoke, words written out bit by bit from 30_encoding.md, single steps with the results of 95_test_vectors.md, and a witness for the hypotheses of each statement. -/

namespace Sys2Proof.Tests

open Sys2Proof.Machine

set_option Elab.async false

/-! ## A small machine: `S = 0xF`, `MBOX_PENDING_OFFSET = 4` (95_test_vectors.md, Conventions) -/

def plat : Platform := ⟨0x40000000, 0x3F00B800, 2, 0xF#32, 1, 0⟩

def base : State := State.construct plat

/-- An answer of the environment that delivers no signal. -/
def gives (v : Word) : EnvAnswer := ⟨v, []⟩

def hearing (l : List EnvAnswer) (s : State) : State := { s with envAnswers := l }

/-- The state an instruction leaves; a stop leaves the state as it was. -/
def after (i : Instr) (s : State) : State :=
  match exec i s with
  | .next t => t
  | .fault _ => s
  | .refused _ => s

def faults (i : Instr) (s : State) : Option Fault :=
  match exec i s with
  | .next _ => none
  | .fault r => some r
  | .refused _ => none

def withRq (l : List Word) (s : State) : State := l.foldl (fun s v => pushRq v s) s

def withWq (l : List Word) (s : State) : State := l.foldl (fun s v => pushWq v s) s

def rqFull : State := withRq (List.replicate 32 0x222#32) base

def wqFull : State := withWq (List.replicate 32 8#32) base

def routerStopped : State := { base with routerFatal := some .signalIndex }

def mboxStopped : State := { base with mboxFatal := some .signalIndex }

/-! ## WellFormed: an ill-formed term for each check -/

theorem test_illformed_router_read_misaligned : Instr.wf (.rdRouterBad 0x11#8) = false := by decide
theorem test_illformed_router_read_mapped : Instr.wf (.rdRouterBad 0x40#8) = false := by decide
theorem test_illformed_router_write_misaligned : Instr.wf (.wrRouterBad 0x62#8 0#32) = false := by decide
theorem test_illformed_router_write_mapped : Instr.wf (.wrRouterBad 0x80#8 0#32) = false := by decide
theorem test_illformed_router_access_admitted : Instr.wf (.routerBadAccess .write .four 0x40#8 0#32) = false := by decide
theorem test_illformed_router_access_read_data : Instr.wf (.routerBadAccess .read .two 0x40#8 1#32) = false := by decide
theorem test_illformed_mbox_read_misaligned : Instr.wf (.rdMboxBad 0x03#8) = false := by decide
theorem test_illformed_mbox_read_mapped : Instr.wf (.rdMboxBad 0xB8#8) = false := by decide
theorem test_illformed_mbox_write_misaligned : Instr.wf (.wrMboxBad 0x81#8 0#32) = false := by decide
theorem test_illformed_mbox_write_mapped : Instr.wf (.wrMboxBad 0x9C#8 0#32) = false := by decide
theorem test_illformed_mbox_access_admitted : Instr.wf (.mboxBadAccess .read .four 0x80#8 0#32) = false := by decide
theorem test_illformed_mbox_access_read_data : Instr.wf (.mboxBadAccess .read .eight 0x80#8 7#32) = false := by decide
theorem test_illformed_reserved_key : Instr.wf (.reservedKey 0x8001#16) = false := by decide

/-! ## Decode: `00 blk sz 000 off`, `01 blk sz 000 off`, `10 cls idx1 idx2 000 lvl`, `11 blk 0…` (R91 to R93), each key written out; the table of 95_test_vectors.md among them -/

theorem test_decode_rdGpuRoute : decode ⟨0b00_0_10_000_00001100#16, 9#32⟩ = .rdGpuRoute := by decide
theorem test_decode_wrGpuRoute : decode ⟨0b01_0_10_000_00001100#16, 9#32⟩ = .wrGpuRoute 9#32 := by decide
theorem test_decode_rdLocalRouteCtrl : decode ⟨0b00_0_10_000_01000100#16, 9#32⟩ = .rdLocalRouteCtrl 1 := by decide
theorem test_decode_wrLocalRouteCtrl : decode ⟨0b01_0_10_000_01001000#16, 9#32⟩ = .wrLocalRouteCtrl 2 9#32 := by decide
theorem test_decode_rdMboxRouteCtrl : decode ⟨0b00_0_10_000_01011100#16, 9#32⟩ = .rdMboxRouteCtrl 3 := by decide
theorem test_decode_wrMboxRouteCtrl : decode ⟨0b01_0_10_000_01010100#16, 9#32⟩ = .wrMboxRouteCtrl 1 9#32 := by decide
theorem test_decode_rdIrqSource : decode ⟨0b00_0_10_000_01101000#16, 9#32⟩ = .rdIrqSource 2 := by decide
theorem test_decode_rdFiqSource : decode ⟨0b00_0_10_000_01111100#16, 9#32⟩ = .rdFiqSource 3 := by decide
theorem test_decode_wrMboxSet : decode ⟨0b01_0_10_000_10111100#16, 9#32⟩ = .wrMboxSet 15 9#32 := by decide
theorem test_decode_rdMbox : decode ⟨0b00_0_10_000_11000100#16, 9#32⟩ = .rdMbox 1 := by decide
theorem test_decode_wrMboxClr : decode ⟨0b01_0_10_000_11010000#16, 9#32⟩ = .wrMboxClr 4 9#32 := by decide
theorem test_decode_rdRouterBad : decode ⟨0b00_0_10_000_10000000#16, 9#32⟩ = .rdRouterBad 0x80#8 := by decide
theorem test_decode_wrRouterBad : decode ⟨0b01_0_10_000_01100100#16, 9#32⟩ = .wrRouterBad 0x64#8 9#32 := by decide
theorem test_decode_routerBadAccess_size : decode ⟨0b00_0_01_000_00001100#16, 9#32⟩ = .routerBadAccess .read .two 0x0C#8 0#32 := by decide
theorem test_decode_routerBadAccess_alignment : decode ⟨0b01_0_10_000_00001101#16, 9#32⟩ = .routerBadAccess .write .four 0x0D#8 9#32 := by decide
theorem test_decode_rdPop : decode ⟨0b00_1_10_000_10001100#16, 9#32⟩ = .rdPop 3 := by decide
theorem test_decode_rdPeek : decode ⟨0b00_1_10_000_10010000#16, 9#32⟩ = .rdPeek := by decide
theorem test_decode_rdSender : decode ⟨0b00_1_10_000_10010100#16, 9#32⟩ = .rdSender := by decide
theorem test_decode_rdStatus0 : decode ⟨0b00_1_10_000_10011000#16, 9#32⟩ = .rdStatus0 := by decide
theorem test_decode_rdConfig : decode ⟨0b00_1_10_000_10011100#16, 9#32⟩ = .rdConfig := by decide
theorem test_decode_rdStatus1 : decode ⟨0b00_1_10_000_10111000#16, 9#32⟩ = .rdStatus1 := by decide
theorem test_decode_wrConfig : decode ⟨0b01_1_10_000_10011100#16, 9#32⟩ = .wrConfig 9#32 := by decide
theorem test_decode_wrPush : decode ⟨0b01_1_10_000_10101000#16, 9#32⟩ = .wrPush 2 9#32 := by decide
theorem test_decode_rdMboxBad : decode ⟨0b00_1_10_000_10100000#16, 9#32⟩ = .rdMboxBad 0xA0#8 := by decide
theorem test_decode_wrMboxBad : decode ⟨0b01_1_10_000_10000000#16, 9#32⟩ = .wrMboxBad 0x80#8 9#32 := by decide
theorem test_decode_mboxBadAccess_size : decode ⟨0b00_1_01_000_10000000#16, 9#32⟩ = .mboxBadAccess .read .two 0x80#8 0#32 := by decide
theorem test_decode_mboxBadAccess_alignment : decode ⟨0b01_1_10_000_10000010#16, 9#32⟩ = .mboxBadAccess .write .four 0x82#8 9#32 := by decide
theorem test_decode_sigLocalIrq : decode ⟨0b10_0000_0011_10_000_1#16, 0#32⟩ = .sigLocalIrq 3 2 true := by decide
theorem test_decode_sigLocalIrq_core4 : decode ⟨0b10_0000_0100_00_000_1#16, 0#32⟩ = .sigLocalIrq 4 0 true := by decide
theorem test_decode_sigGpuIrq : decode ⟨0b10_0001_0000_00_000_1#16, 0#32⟩ = .sigGpuIrq true := by decide
theorem test_decode_sigGpuFiq : decode ⟨0b10_0010_0000_00_000_0#16, 0#32⟩ = .sigGpuFiq false := by decide
theorem test_decode_sigChannelAvailable : decode ⟨0b10_0011_0001_00_000_1#16, 0#32⟩ = .sigChannelAvailable 1 true := by decide
theorem test_decode_sigChannelAvailable_9 : decode ⟨0b10_0011_1001_00_000_1#16, 0#32⟩ = .sigChannelAvailable 9 true := by decide
theorem test_decode_resetRouter : decode ⟨0b11_0_0000000000000#16, 0#32⟩ = .resetRouter := by decide
theorem test_decode_resetMbox : decode ⟨0b11_1_0000000000000#16, 0#32⟩ = .resetMbox := by decide
theorem test_decode_reserved_gpu : decode ⟨0b10_0001_0000_00_001_0#16, 0#32⟩ = .reservedKey 0x8402#16 := by decide
theorem test_decode_reserved_class : decode ⟨0b10_0100_0000_00_000_1#16, 0#32⟩ = .reservedKey 0x9001#16 := by decide
theorem test_decode_reserved_reset : decode ⟨0b11_0_0000000000001#16, 0#32⟩ = .reservedKey 0xC001#16 := by decide
theorem test_decode_reserved_bus : decode ⟨0b00_0_00_001_00000000#16, 0#32⟩ = .reservedKey 0x0100#16 := by decide

/-- The host's entry: a 16-bit row without data, a write with its data above the key, a number too short for a key. -/
theorem test_decodeTableWord : decodeTableWord 16 0x500C = some (.wrGpuRoute 0#32) ∧
    decodeTableWord 48 0x00000005500C = some (.wrGpuRoute 5#32) ∧ decodeTableWord 8 0x0C = none := by decide

/-! ## Single steps, results from 95_test_vectors.md -/

/-- V-RG-2. -/
theorem test_rdGpuRoute : (after .rdGpuRoute (after (.wrGpuRoute 0xE#32) base)).rdata = some 0xE#32 := by decide +kernel
/-- V-RR-7: the GPU IRQ follows its route within the write. -/
theorem test_wrGpuRoute : let t := after (.wrGpuRoute 3#32) (after (.sigGpuIrq true) (after (.wrGpuRoute 2#32) base))
    t.router.irqSource.toList = [0#12, 0#12, 0#12, 0x100#12] ∧ t.router.irqOut.toList = [false, false, false, true] := by decide +kernel
/-- V-RG-3. -/
theorem test_rdLocalRouteCtrl : (after (.rdLocalRouteCtrl 0) (after (.wrLocalRouteCtrl 0 0x1FF#32) base)).rdata = some 0xFF#32 := by decide +kernel
/-- V-SRC-2: FIQ wins. -/
theorem test_wrLocalRouteCtrl : let t := after (.wrLocalRouteCtrl 0 0x11#32) (after (.sigLocalIrq 0 0 true) base)
    t.router.irqSource[0] = 0#12 ∧ t.router.fiqSource[0] = 1#12 ∧ t.router.irqOut[0] = false ∧ t.router.fiqOut[0] = true := by decide +kernel
/-- V-RG-5, and a value kept as written. -/
theorem test_rdMboxRouteCtrl : (after (.rdMboxRouteCtrl 3) base).rdata = some 0#32 ∧
    (after (.rdMboxRouteCtrl 3) (after (.wrMboxRouteCtrl 3 0x11#32) base)).rdata = some 0x11#32 := by decide +kernel
/-- V-RG-6. -/
theorem test_wrMboxRouteCtrl : let t := after (.wrMboxRouteCtrl 1 0x10#32) (after (.wrMboxSet 4 1#32) base)
    t.router.fiqSource[1] = 0x010#12 ∧ t.router.fiqOut[1] = true := by decide +kernel
/-- P2 step 9. -/
theorem test_rdIrqSource : (after (.rdIrqSource 2) (after (.sigGpuIrq true) (after (.wrGpuRoute 0xE#32) base))).rdata = some 0x100#32 := by decide +kernel
/-- P2 step 11. -/
theorem test_rdFiqSource : (after (.rdFiqSource 3) (after (.sigGpuFiq true) (after (.wrGpuRoute 0xE#32) base))).rdata = some 0x100#32 := by decide +kernel
/-- V-RG-7. -/
theorem test_wrMboxSet : (after (.rdMbox 4) (after (.wrMboxSet 4 0xF#32) (after (.wrMboxSet 4 0x12345678#32) base))).rdata = some 0x1234567F#32 := by decide +kernel
/-- V-RG-8. -/
theorem test_wrMboxClr : let t := after (.wrMboxClr 4 0x5678#32) (after (.wrMboxSet 4 0x12345678#32) base)
    (after (.rdMbox 4) t).rdata = some 0x12340000#32 ∧ (t.router.mailboxBits 1).getLsbD 0 = true := by decide +kernel
/-- V-RG-10: the offset of MBOX_SET has no read meaning. -/
theorem test_rdRouterBad : after (.rdRouterBad 0x80#8) (after (.wrMboxSet 0 1#32) base) =
    { after (.wrMboxSet 0 1#32) base with diagLog := [⟨.router, .routerBadRead, 0x80#8, 0#32⟩], rdata := some 0#32 } := by decide +kernel
/-- V-RG-12. -/
theorem test_wrRouterBad : after (.wrRouterBad 0x60#8 0xFFF#32) base = { base with diagLog := [⟨.router, .routerBadWrite, 0x60#8, 0xFFF#32⟩] } := by decide +kernel
/-- V-RG-13. -/
theorem test_routerBadAccess_write : after (.routerBadAccess .write .one 0x40#8 0xFF#32) base =
    { base with diagLog := [⟨.router, .badAccess, 0x40#8, 0xFF#32⟩] } := by decide +kernel
/-- V-RG-13. -/
theorem test_routerBadAccess_read : after (.routerBadAccess .read .eight 0x0C#8 0#32) base =
    { base with diagLog := [⟨.router, .badAccess, 0x0C#8, 0#32⟩], rdata := some 0#32 } := by decide +kernel
/-- V-SRC-7: `SIG LIRQ 0, 0, 1` with core 0's enable set. -/
theorem test_sigLocalIrq : let t := after (.sigLocalIrq 0 0 true) (after (.wrLocalRouteCtrl 0 1#32) base)
    t.router.irqSource[0] = 1#12 ∧ t.router.irqOut[0] = true ∧ t.router.fiqOut[0] = false := by decide +kernel
/-- V-RR-12. -/
theorem test_sigLocalIrq_fatal : after (.sigLocalIrq 5 0 true) base = { base with routerFatal := some .signalIndex } ∧
    faults .resetRouter (after (.sigLocalIrq 5 0 true) base) = some (.blockStopped .router) := by decide +kernel
/-- V-SRC-3. -/
theorem test_sigGpuIrq : let t := after (.sigGpuIrq true) (after (.wrGpuRoute 2#32) base)
    t.router.irqOut.toList = [false, false, true, false] ∧ t.router.irqSource[2] = 0x100#12 ∧ t.router.fiqOut.toList = [false, false, false, false] := by decide +kernel
/-- V-RR-6: both GPU lines on core 1. -/
theorem test_sigGpuFiq : let t := after (.sigGpuFiq true) (after (.sigGpuIrq true) (after (.wrGpuRoute 5#32) base))
    t.router.irqSource[1] = 0x100#12 ∧ t.router.fiqSource[1] = 0x100#12 ∧ t.router.irqOut[1] = true ∧ t.router.fiqOut[1] = true := by decide +kernel
/-- V-RR-5. -/
theorem test_recompute_mailbox_sources : let t := routerRecompute { Router.reset with
      mboxWord := Vector.ofFn fun m => if 4 ≤ m.val ∧ m.val < 8 then 1#32 else 0#32, mailboxRouteCtrl := Vector.ofFn fun c => if c = 1 then 0x3C#8 else 0#8 }
    t.fiqSource[1] = 0x030#12 ∧ t.irqSource[1] = 0x0C0#12 := by decide +kernel
/-- V-RST-1: the snapshots and lines as well. -/
theorem test_resetRouter : (after .resetRouter (after (.sigGpuIrq true) (after (.wrGpuRoute 0xE#32) base))) = base := by decide +kernel
/-- V-MB-1 and V-MR-2: the entry returned, the rest moved down, the sentinel in the vacated slot. -/
theorem test_rdPop : let t := after (.rdPop 2) (withRq [0xA#32, 0xB#32, 0xC#32] base)
    t.rdata = some 0xA#32 ∧ t.mbox.rq.count = 2 ∧ t.mbox.rq.reg[0] = 0xB#32 ∧ t.mbox.rq.reg[1] = 0xC#32 ∧ t.mbox.rq.reg[2] = 0xF#32 := by decide +kernel
/-- V-MR-1. -/
theorem test_rdPop_empty : after (.rdPop 0) base = { base with rdata := some 0xF#32 } := by decide +kernel
/-- V-MR-3. -/
theorem test_rdPeek : after .rdPeek (withRq [0xA#32, 0xB#32] base) = { withRq [0xA#32, 0xB#32] base with rdata := some 0xA#32 } := by decide +kernel
/-- V-MR-4: the value before the recompute, which then pulls. -/
theorem test_rdPeek_refill : let t := after .rdPeek (hearing [gives 0x42#32, gives 0xF#32] (setChannel 2 true base))
    t.rdata = some 0xF#32 ∧ t.mbox.rq.entries = [0x42#32] ∧ t.mboxHistory = [.read 0x20 0x42#32, .read 0x20 0xF#32] := by decide +kernel
/-- V-MR-8, and V-MB-2: a sentinel is skipped and the pass goes on. -/
theorem test_rdSender : let t := after .rdSender (hearing [gives 0xF#32, ⟨0x42#32, [.channel 2 false]⟩, gives 0xF#32] (setChannel 0 true (setChannel 2 true base)))
    t.rdata = some 0#32 ∧ t.mbox.rq.entries = [0x42#32] ∧ t.mboxHistory.map accessAddr = [0x00, 0x20, 0x00] := by decide +kernel
/-- V-MB-8: the full queue. -/
theorem test_rdStatus0 : (after .rdStatus0 rqFull).rdata = some 0x80000000#32 ∧ (after .rdStatus0 base).rdata = some 0x40000000#32 := by decide +kernel
/-- V-SRC-5. -/
theorem test_rdStatus1 : (after .rdStatus1 wqFull).rdata = some 0x80000000#32 ∧ (after .rdStatus1 (withWq [8#32] base)).rdata = some 0#32 := by decide +kernel
/-- V-SRC-9: channel 0 first, and a pull restarts the scan. -/
theorem test_rdConfig : let t := after .rdConfig (hearing [⟨0x100#32, [.channel 0 false]⟩, ⟨0x303#32, [.channel 3 false]⟩] (setChannel 0 true (setChannel 3 true base)))
    t.rdata = some 0#32 ∧ t.mbox.rq.entries = [0x100#32, 0x303#32] ∧ t.mboxHistory.map accessAddr = [0x00, 0x30] := by decide +kernel
/-- V-MR-7. -/
theorem test_wrConfig : (after .rdConfig (after (.wrConfig 0xFFFFFFFF#32) base)).rdata = some 1#32 ∧
    (after .rdConfig (after (.wrConfig 0xFFFFFFFE#32) base)).rdata = some 0#32 := by decide +kernel
/-- V-MB-7. -/
theorem test_wrConfig_line : let t := after (.wrConfig 1#32) (withRq [0xA#32] base)
    t.mbox.mboxIrqOut = true ∧ (after (.rdPop 0) t).mbox.mboxIrqOut = false := by decide +kernel
/-- V-MR-9: the direct push. -/
theorem test_wrPush_direct : let t := after (.wrPush 0 0x121#32) (hearing [gives 0#32, gives 0#32] base)
    t.mboxHistory = [.read 0x14 0#32, .write 0x10 0x121#32] ∧ t.mbox.wq.count = 0 ∧ t.diagLog = [] := by decide +kernel
/-- V-MR-10: the delayed push. -/
theorem test_wrPush_delayed : let t := after (.wrPush 1 0xABC8#32) (hearing [gives 1#32] base)
    t.mboxHistory = [.read 0x84 1#32] ∧ t.mbox.wq.entries = [0xABC8#32] := by decide +kernel
/-- V-MR-11 and V-MR-12: FULL is checked before the channel. -/
theorem test_wrPush_dropped : (after (.wrPush 2 0xC#32) base).diagLog = [⟨.mbox, .mboxInvalidChannel, 0xA8#8, 0xC#32⟩] ∧
    (after (.wrPush 0 0xC#32) wqFull).diagLog = [⟨.mbox, .mboxWqFull, 0xA0#8, 0xC#32⟩] := by decide +kernel
/-- V-MR-6: no drain, though a channel is available. -/
theorem test_rdMboxBad : after (.rdMboxBad 0x00#8) (setChannel 2 true base) =
    { setChannel 2 true base with diagLog := [⟨.mbox, .mboxBadRead, 0x00#8, 0#32⟩], rdata := some 0#32 } := by decide +kernel
/-- V-MR-6. -/
theorem test_wrMboxBad : after (.wrMboxBad 0x98#8 0#32) (setChannel 2 true base) =
    { setChannel 2 true base with diagLog := [⟨.mbox, .mboxBadWrite, 0x98#8, 0#32⟩] } := by decide +kernel
/-- V-MR-15. -/
theorem test_mboxBadAccess_read : after (.mboxBadAccess .read .two 0x80#8 0#32) (withRq [0xA#32] base) =
    { withRq [0xA#32] base with diagLog := [⟨.mbox, .badAccess, 0x80#8, 0#32⟩], rdata := some 0#32 } := by decide +kernel
/-- V-EX-1. -/
theorem test_mboxBadAccess_write : (after (.mboxBadAccess .write .one 0xA1#8 0xC#32) base).diagLog = [⟨.mbox, .badAccess, 0xA1#8, 0xC#32⟩] := by decide +kernel
/-- P3: the nested signals set flags only; channel 0 before channel 3 though it signalled later. -/
theorem test_sigChannelAvailable : let t := after (.sigChannelAvailable 5 true) (hearing
      [⟨0x55#32, [.channel 5 false, .channel 3 true, .channel 0 true]⟩, ⟨0x11#32, [.channel 0 false]⟩, ⟨0x33#32, [.channel 3 false]⟩] (after (.wrConfig 1#32) base))
    t.mbox.rq.entries = [0x55#32, 0x11#32, 0x33#32] ∧ t.mbox.mboxIrqOut = true ∧ t.mboxHistory.map accessAddr = [0x50, 0x00, 0x30] := by decide +kernel
/-- V-MB-6: the re-entrancy window. -/
theorem test_sigChannelAvailable_window : let t := after (.sigChannelAvailable 5 true) (hearing [⟨0xF#32, [.channel 1 true]⟩] base)
    t.mbox.rq.count = 0 ∧ t.mboxHistory = [.read 0x50 0xF#32] ∧ t.mbox.channelAvailable[1] = true := by decide +kernel
/-- V-RST-2 and V-RST-3. -/
theorem test_resetMbox : let s := after (.wrMboxSet 0 1#32) (setChannel 2 true (after (.wrConfig 1#32) (withRq [0xA#32] base)))
    after .resetMbox s = { s with mbox := Mbox.reset 0xF#32 } := by decide +kernel
/-- R94: refused by name. -/
theorem test_reservedKey : exec (.reservedKey 0x0100#16) base = .refused (.reservedKey 0x0100#16) := by rfl
/-- A step takes the first waiting event. -/
theorem test_step_fetches : step (State.withFetchWord base 48 0x00000005500C) = exec (.wrGpuRoute 5#32) base := by rfl

/-! ## Witnesses: for each statement with hypotheses, a state and operands that meet them together -/

/-- Core 2 with every source of the router active and every enable set. -/
def busyRouter : Router := { Router.reset with
  localIrqBits := Vector.replicate 4 0xF#4, gpuIrqLevel := true, gpuFiqLevel := true, gpuIrqRoute := 2#2, gpuFiqRoute := 2#2
  localRouteCtrl := Vector.replicate 4 0xFF#8, mailboxRouteCtrl := Vector.replicate 4 0xFF#8, mboxWord := Vector.replicate 16 1#32 }

/-- A state after several events: something in every kind of state. -/
def used : State :=
  after (.sigChannelAvailable 1 true) (hearing (List.replicate 40 (gives 0xF#32))
    (after (.wrMboxSet 5 0x80#32) (after (.sigGpuFiq true) (after (.sigLocalIrq 1 3 true) (after (.wrLocalRouteCtrl 1 0xFF#32) (withWq [0x10#32] (withRq [0xA#32, 0xB#32] base)))))))

def runs (i : Instr) (s : State) : Bool :=
  match exec i s with
  | .next _ => true
  | .fault _ => false
  | .refused _ => false

theorem next_after {i : Instr} {s : State} (h : runs i s = true) : exec i s = .next (after i s) := by
  unfold runs at h
  unfold after
  cases he : exec i s <;> simp [he] at h ⊢

/-- The state a step leaves. -/
def stepped (s : State) : State :=
  match step s with
  | .next t => t
  | .fault _ => s
  | .refused _ => s

def stepRuns (s : State) : Bool :=
  match step s with
  | .next _ => true
  | .fault _ => false
  | .refused _ => false

theorem next_stepped {s : State} (h : stepRuns s = true) : step s = .next (stepped s) := by
  unfold stepRuns at h
  unfold stepped
  cases he : step s <;> simp [he] at h ⊢

def posted (e : Event) (s : State) : State := { s with inbox := e :: s.inbox }

theorem test_witness_DecodeOfEncode : Instr.wf (.routerBadAccess .write .eight 0xFF#8 0xFFFFFFFF#32) = true ∧ Instr.wf (.rdMboxBad 0xFC#8) = true ∧
    Instr.wf (.wrMboxBad 0x98#8 1#32) = true ∧ Instr.wf (.reservedKey 0xFFFF#16) = true ∧ Instr.wf (.sigLocalIrq 15 3 true) = true := by decide

theorem test_witness_OpcodeRowsDisjoint : (⟨0x100C#16, 0xFFFF#16, .RD_GPU_ROUTE⟩ : OpcodeRow) ∈ opcodeTable ∧
    rowMatches 0x100C#16 ⟨0x100C#16, 0xFFFF#16, .RD_GPU_ROUTE⟩ = true := by decide

theorem test_witness_ReservedKeysAreRefused : isReservedKey 0x8402#16 = true ∧ (posted ⟨0x8402#16, 0#32⟩ used).inbox = ⟨0x8402#16, 0#32⟩ :: [] := by decide +kernel

theorem test_witness_StepRunsDecodedEvent : (posted ⟨0x500C#16, 5#32⟩ used).inbox = ⟨0x500C#16, 5#32⟩ :: [] ∧ used.inbox = [] := by decide +kernel

theorem test_witness_EventRunsUnlessBlockStopped : eventBlock .resetRouter = some .router ∧ stopped .router routerStopped = true ∧
    stopped .router used = false ∧ eventBlock .rdPeek = some .mbox ∧ stopped .mbox mboxStopped = true ∧ stopped .mbox used = false := by decide +kernel

theorem test_witness_StepKeepsInvariant : Inv (posted ⟨0x5044#16, 0x0F#32⟩ used) ∧
    step (posted ⟨0x5044#16, 0x0F#32⟩ used) = .next (stepped (posted ⟨0x5044#16, 0x0F#32⟩ used)) :=
  ⟨by decide +kernel, next_stepped (by decide +kernel)⟩

/-- With a flag set, an event of the other block. -/
theorem test_witness_StepOnlyExtendsRecords : routerStopped.routerFatal ≠ none ∧ mboxStopped.mboxFatal ≠ none ∧
    step (posted ⟨0x709C#16, 1#32⟩ routerStopped) = .next (stepped (posted ⟨0x709C#16, 1#32⟩ routerStopped)) ∧
    step (posted ⟨0x500C#16, 1#32⟩ mboxStopped) = .next (stepped (posted ⟨0x500C#16, 1#32⟩ mboxStopped)) :=
  ⟨by decide, by decide, next_stepped (by decide +kernel), next_stepped (by decide +kernel)⟩

theorem test_witness_FiqTakesPrecedence : busyRouter.localIrqBits[2].getLsbD 3 = true ∧ busyRouter.localRouteCtrl[2].getLsbD 3 = true ∧
    busyRouter.localRouteCtrl[2].getLsbD (4 + 3) = true ∧ busyRouter.mboxWord[mboxIndex 2 3] ≠ 0#32 ∧
    busyRouter.mailboxRouteCtrl[2].getLsbD 3 = true ∧ busyRouter.mailboxRouteCtrl[2].getLsbD (4 + 3) = true := by decide

theorem test_witness_GpuLinesFollowRoutesUnmasked : busyRouter.gpuIrqLevel = true ∧ busyRouter.gpuFiqLevel = true ∧
    busyRouter.gpuIrqRoute = busyRouter.gpuFiqRoute ∧ (2 : Core).val = busyRouter.gpuIrqRoute.toNat := by decide

theorem test_witness_SnapshotLayout : 9 ≤ 9 ∧ 7 < 8 := by decide

/-- For WrGpuRouteResult, WrRouteCtrlResult, WrMboxSetAndClrResult, RouterReadsResult, SourceReadsAreNeverStale, RouterBadAccessesOnlyLog and ResetRouterResult: a state with a level, an enable and a mailbox word set. -/
theorem test_witness_router_statements : used.routerFatal = none ∧ used.router.Fresh ∧ Inv used ∧ used.router.fiqSource[1] = 8#12 := by decide +kernel

theorem test_witness_RouterSignalsResult : (3 : Fin 16).val < 4 ∧ used.routerFatal = none := by decide +kernel

theorem test_witness_SignalIndexOutOfRangeIsFatal : 4 ≤ (4 : Fin 16).val ∧ 9 ≤ (9 : Fin 16).val ∧ 9 ≤ (15 : Fin 16).val ∧
    used.routerFatal = none ∧ used.mboxFatal = none := by decide +kernel

/-- The event that raises local line 2 of core 1, and the one that raises the GPU IRQ line. -/
abbrev raiseLocal : Instr := RouterLine.event (.localLine 1 2) true
abbrev raiseGpuIrq : Instr := RouterLine.event .gpuIrqLine true

theorem test_witness_RepeatedLevelChangesNothing : exec raiseLocal used = .next (after raiseLocal used) ∧
    exec raiseLocal (after raiseLocal used) = .next (after raiseLocal (after raiseLocal used)) ∧ after raiseLocal used ≠ used := by
  refine ⟨next_after (by decide +kernel), next_after (by decide +kernel), by decide +kernel⟩

theorem test_witness_RouterSignalsCommute : (RouterLine.localLine 1 2) ≠ .gpuIrqLine ∧
    exec raiseLocal used = .next (after raiseLocal used) ∧
    exec raiseGpuIrq (after raiseLocal used) = .next (after raiseGpuIrq (after raiseLocal used)) ∧
    exec raiseGpuIrq used = .next (after raiseGpuIrq used) ∧
    exec raiseLocal (after raiseGpuIrq used) = .next (after raiseLocal (after raiseGpuIrq used)) := by
  refine ⟨by decide, next_after (by decide +kernel), next_after (by decide +kernel), next_after (by decide +kernel), next_after (by decide +kernel)⟩

theorem test_witness_RouterEventsLeaveMboxAlone : isRouterEvent (.wrMboxClr 5 0x80#32) = true ∧
    exec (.wrMboxClr 5 0x80#32) used = .next (after (.wrMboxClr 5 0x80#32) used) := by
  refine ⟨by decide, next_after (by decide +kernel)⟩

/-- One entry below the capacity, and the sentinel as the word pushed. -/
theorem test_witness_QueuePushAppends : (after (.rdPop 0) (setChannel 0 false rqFull)).mbox.rq.Ok 0xF#32 ∧
    (after (.rdPop 0) (setChannel 0 false rqFull)).mbox.rq.count = 31 := by decide +kernel

/-- A full queue and a queue of one. -/
theorem test_witness_QueuePullRemovesHead : rqFull.mbox.rq.Ok 0xF#32 ∧ rqFull.mbox.rq.count ≠ 0 ∧
    (withRq [0xA#32] base).mbox.rq.Ok 0xF#32 ∧ (withRq [0xA#32] base).mbox.rq.count ≠ 0 := by decide +kernel

/-- Channels 2 and 5 available, with three words, then sentinels. -/
def draining : State := hearing [gives 0x22#32, gives 0xF#32, gives 0x55#32, gives 0xF#32, gives 0xF#32] (setChannel 2 true (setChannel 5 true base))

theorem test_witness_RecomputeTerminates : draining.mbox.rq.count ≤ 32 ∧ rqFull.mbox.rq.count ≤ 32 := by decide +kernel

/-- The last clause as well, for every statement that says Drained of `draining`. -/
theorem test_witness_DrainPullsWhatItReads : draining.mbox.rq.Ok 0xF#32 ∧ (mboxRecompute draining).mboxFatal = none ∧
    (mboxRecompute draining).mbox.rq.entries = [0x22#32, 0x55#32] ∧ draining.mbox.rq.count ≠ 32 ∧ LowestAvailable draining 2 := by decide +kernel

/-- A pull after a sentinel, and a pass whose second read follows a sentinel. -/
theorem test_witness_ScanAscendsUntilPull :
    let s := hearing [gives 0xF#32, gives 0x55#32] (setChannel 2 true (setChannel 5 true base))
    (mboxRecompute draining).mboxHistory =
      [.read 0x20 0x22#32] ++ .read 0x20 0xF#32 :: .read 0x50 0x55#32 :: [.read 0x20 0xF#32, .read 0x50 0xF#32] ∧
    accessValue (.read 0x20 0xF#32) = draining.platform.sentinel ∧
    (drainScan allChannels s).2.mboxHistory = s.mboxHistory ++ ([.read 0x20 0xF#32] ++ .read 0x50 0x55#32 :: []) := by decide +kernel

theorem test_witness_PassStartsAtLowestAvailable : draining.mbox.rq.count ≠ 32 ∧ LowestAvailable draining 2 ∧
    drainScan allChannels draining = (true, (drainScan allChannels draining).2) ∧ (drainScan allChannels draining).2.mboxFatal = none := by decide +kernel

theorem test_witness_GuardSuppressesNestedRecompute : (setGuard true used).mboxFatal = none ∧ (setGuard true used).mbox.updateInProgress = true ∧
    used.mboxFatal = none ∧ used.mbox.updateInProgress = false := by decide +kernel

theorem test_witness_LowerChannelWaitsForNextRecompute :
    let s := hearing [⟨0xF#32, [.channel 1 true]⟩, gives 3#32] (setChannel 5 true base)
    (1 : Channel).val < (5 : Channel).val ∧ s.mboxFatal = none ∧ s.mbox.rq.count < 32 ∧
    (∀ b : Channel, s.mbox.channelAvailable[b] = decide (b = 5)) ∧
    s.envAnswers = ⟨s.platform.sentinel, [.channel 1 true]⟩ :: [gives 3#32] := by decide +kernel

theorem test_witness_RecomputeDrivesIrqLine : (mboxRecompute draining).mboxFatal = none ∧ rqFull.mboxFatal = none ∧ NoChannel rqFull := by decide +kernel

/-- Both cases of a POP, with and without an available channel. -/
theorem test_witness_RdPopResult : draining.mboxFatal = none ∧ draining.mbox.rq.Ok draining.platform.sentinel ∧
    (after (.rdPop 0) draining).mboxFatal = none ∧ NoChannel rqFull ∧ rqFull.mbox.rq.Ok rqFull.platform.sentinel ∧ rqFull.mbox.rq.count ≠ 0 := by decide +kernel

/-- Each of the three reads. -/
theorem test_witness_DrainingReadsResult : draining.mboxFatal = none ∧ draining.mbox.rq.Ok draining.platform.sentinel ∧
    (after .rdPeek draining).mboxFatal = none ∧ (after .rdSender draining).mboxFatal = none ∧ (after .rdConfig draining).mboxFatal = none ∧
    NoChannel base ∧ base.mbox.rq.Ok base.platform.sentinel := by decide +kernel

theorem test_witness_PeekThenPopAgree : Inv used ∧ used.mbox.rq.count ≠ 0 ∧ exec .rdPeek used = .next (after .rdPeek used) ∧
    (after .rdPeek used).mboxFatal = none ∧ exec (.rdPop 1) (after .rdPeek used) = .next (after (.rdPop 1) (after .rdPeek used)) ∧
    (after (.rdPop 1) (after .rdPeek used)).mboxFatal = none := by
  refine ⟨by decide +kernel, by decide +kernel, next_after (by decide +kernel), by decide +kernel, next_after (by decide +kernel), by decide +kernel⟩

/-- For StatusReadsChangeNothing, MboxBadAccessesOnlyLog and ResetMboxResult: a state with entries in both queues. -/
theorem test_witness_mbox_statements : used.mboxFatal = none ∧ used.mbox.rq.count = 2 ∧ used.mbox.wq.count = 1 := by decide +kernel

theorem test_witness_WrConfigResult : draining.mboxFatal = none ∧ draining.mbox.rq.Ok draining.platform.sentinel ∧
    (after (.wrConfig 1#32) draining).mboxFatal = none ∧ NoChannel base := by decide +kernel

/-- A full queue, and the channel fields 9 and 15 with a queue that has room. -/
theorem test_witness_DroppedPushOnlyLogsAndDrains : wqFull.mboxFatal = none ∧ wqFull.mbox.rq.Ok wqFull.platform.sentinel ∧ wqFull.mbox.wq.count = 32 ∧
    9 ≤ (0x9#32).toNat % 16 ∧ 9 ≤ (0xFF#32).toNat % 16 ∧ NoChannel wqFull ∧ (after (.wrPush 3 0x9#32) draining).mboxFatal = none := by decide +kernel

/-- A non-zero and a zero pending cell, channels 0 and 8, one entry below the capacity, with a channel to drain and with none. -/
theorem test_witness_PushFollowsPendingCell :
    let s := hearing [gives 1#32, gives 0xF#32] (setChannel 5 true (withWq (List.replicate 31 8#32) base))
    let z := hearing [gives 0#32, gives 0#32] base
    s.mboxFatal = none ∧ s.mbox.rq.Ok s.platform.sentinel ∧ s.mbox.wq.Ok s.platform.sentinel ∧ s.mbox.wq.count < 32 ∧
    (0x18#32).toNat % 16 ≤ 8 ∧ s.envAnswers = gives 1#32 :: gives 0xF#32 :: [] ∧ (gives 1#32).nested = [] ∧ (gives 0xF#32).nested = [] ∧
    (gives 1#32).value ≠ 0#32 ∧ (after (.wrPush 0 0x18#32) s).mboxFatal = none ∧ s.mbox.rq.count ≠ 32 ∧ LowestAvailable s 5 ∧
    z.mboxFatal = none ∧ z.mbox.rq.Ok z.platform.sentinel ∧ z.mbox.wq.Ok z.platform.sentinel ∧ z.mbox.wq.count < 32 ∧
    (0x10#32).toNat % 16 ≤ 8 ∧ z.envAnswers = gives 0#32 :: gives 0#32 :: [] ∧ (gives 0#32).nested = [] ∧ (gives 0#32).value = 0#32 ∧
    (after (.wrPush 0 0x10#32) z).mboxFatal = none ∧ NoChannel z := by decide +kernel

/-- A signal arrives within the read of the pending cell. -/
theorem test_witness_PushQueuesExactlyWhenPending :
    let s := hearing [⟨1#32, [.channel 4 true]⟩, gives 0x44#32, gives 0xF#32, gives 0xF#32] base
    Inv s ∧ s.mbox.wq.count < 32 ∧ (0x8#32).toNat % 16 ≤ 8 ∧ exec (.wrPush 0 0x8#32) s = .next (after (.wrPush 0 0x8#32) s) ∧
    (after (.wrPush 0 0x8#32) s).mboxFatal = none := by
  refine ⟨by decide +kernel, by decide +kernel, by decide, next_after (by decide +kernel), by decide +kernel⟩

/-- Level 1 on a channel that then drains, level 0, and no channel left. -/
theorem test_witness_SigChannelResult :
    let s := hearing [gives 0x22#32, gives 0xF#32] base
    (1 : Fin 16).val < 9 ∧ s.mboxFatal = none ∧ s.mbox.rq.Ok s.platform.sentinel ∧ s.mbox.updateInProgress = false ∧
    (after (.sigChannelAvailable 1 true) s).mboxFatal = none ∧ s.mbox.rq.count ≠ 32 ∧ LowestAvailable (setChannel 1 true s) 1 ∧
    (8 : Fin 16).val < 9 ∧ draining.mboxFatal = none ∧ draining.mbox.updateInProgress = false ∧
    (after (.sigChannelAvailable 2 false) draining).mboxFatal = none ∧ NoChannel (setChannel 8 false base) := by decide +kernel

theorem test_witness_MboxEventsFrame : eventBlock (.wrPush 0 0x9#32) = some .mbox ∧ exec (.wrPush 0 0x9#32) base = .next (after (.wrPush 0 0x9#32) base) ∧
    eventBlock .rdPeek = some .mbox ∧ exec .rdPeek draining = .next (after .rdPeek draining) ∧ (after .rdPeek base).mboxHistory = base.mboxHistory := by
  refine ⟨by decide, next_after (by decide +kernel), by decide, next_after (by decide +kernel), by decide +kernel⟩

theorem test_witness_AtMostOneDiagnostic : exec (.rdMboxBad 0xFC#8) used = .next (after (.rdMboxBad 0xFC#8) used) ∧
    isSignal (.sigGpuIrq true) = true ∧ exec (.sigGpuIrq true) used = .next (after (.sigGpuIrq true) used) := by
  refine ⟨next_after (by decide +kernel), by decide, next_after (by decide +kernel)⟩

/-- A mailbox read, a router read with the mailbox block stopped, and a write. -/
theorem test_witness_ReadsAndOnlyReadsReturn : isRead .rdPeek = true ∧ exec .rdPeek used = .next (after .rdPeek used) ∧ (after .rdPeek used).mboxFatal = none ∧
    isRead .rdGpuRoute = true ∧ isRouterEvent .rdGpuRoute = true ∧ exec .rdGpuRoute mboxStopped = .next (after .rdGpuRoute mboxStopped) ∧
    isRead (.wrConfig 1#32) = false ∧ exec (.wrConfig 1#32) used = .next (after (.wrConfig 1#32) used) := by
  refine ⟨by decide, next_after (by decide +kernel), by decide +kernel, by decide, by decide, next_after (by decide +kernel), by decide, next_after (by decide +kernel)⟩

theorem test_witness_OnlySignalIndexIsFatal : Inv used ∧ OnlySignalFatal used.routerFatal ∧ OnlySignalFatal used.mboxFatal ∧
    OnlySignalFatal routerStopped.routerFatal ∧ exec (.rdPop 0) used = .next (after (.rdPop 0) used) := by
  refine ⟨by decide +kernel, by decide +kernel, by decide +kernel, by decide, next_after (by decide +kernel)⟩

/-- A router write, and a CONFIG write and a push under an environment that delivers two signals with every answer. -/
theorem test_witness_RegisterAccessIsNeverFatal :
    let s := hearing (List.replicate 1487 ⟨0x44#32, [.localIrq 3 0 true, .channel 8 true]⟩) (setChannel 4 true base)
    isRouterEvent (.wrGpuRoute 1#32) = true ∧ isSignal (.wrGpuRoute 1#32) = false ∧ exec (.wrGpuRoute 1#32) used = .next (after (.wrGpuRoute 1#32) used) ∧
    eventBlock (.wrConfig 1#32) = some .mbox ∧ isSignal (.wrConfig 1#32) = false ∧ eventBlock (.wrPush 0 8#32) = some .mbox ∧
    isSignal (.wrPush 0 8#32) = false ∧ Inv s ∧ s.routerFatal = none ∧ s.mboxFatal = none ∧ WiredAnswers s ∧
    AnswersSuffice (.wrConfig 1#32) s ∧ AnswersSuffice (.wrPush 0 8#32) s := by
  refine ⟨by decide, by decide, next_after (by decide +kernel), by decide, by decide, by decide, by decide, by decide +kernel, by decide +kernel,
    by decide +kernel, by decide +kernel, ⟨by decide +kernel, nofun⟩, by decide +kernel, fun _ => ⟨2, by decide +kernel, by decide +kernel⟩⟩

theorem test_witness_SnapshotRestoresBlocks : Inv used ∧ used.mboxFatal = none ∧ base.routerFatal = none ∧ base.mboxFatal = none ∧
    base.platform = used.platform := by decide +kernel

/-- Each of the ways an image can be corrupt, and a stopped block. -/
theorem test_witness_CorruptSnapshotIsFatal : base.routerFatal = none ∧ base.mboxFatal = none ∧
    3 < ({ saveRouter Router.reset with gpuIrqRoute := 4 } : RouterImage).gpuIrqRoute ∧
    3 < ({ saveRouter Router.reset with gpuFiqRoute := 7 } : RouterImage).gpuFiqRoute ∧
    ¬ (loadRouter { saveRouter Router.reset with irqOut := Vector.replicate 4 true }).Fresh ∧
    ¬ Queue.Ok 0xF#32 ⟨Vector.replicate 32 0#32, 31⟩ ∧ ¬ Queue.Ok 0xF#32 ⟨Vector.replicate 32 0xF#32, 33⟩ ∧
    routerStopped.routerFatal ≠ none ∧ mboxStopped.mboxFatal ≠ none := by decide +kernel

/-- R57 and R233: a routing index of 4 and a queue of 33 are fatal when the outputs are recomputed too, and stale outputs are not. -/
theorem test_restoreRecomputed :
    (restoreRecomputed ⟨{ saveRouter used.router with gpuIrqRoute := 4 }, { used.mbox with rq := ⟨Vector.replicate 32 0xF#32, 33⟩ }⟩ base) =
      { base with routerFatal := some .stateInvariant, mboxFatal := some .stateInvariant } ∧
    (restoreRecomputed ⟨{ saveRouter used.router with irqSource := Vector.replicate 4 0xFFF#12 }, used.mbox⟩ base).router = used.router ∧
    (restoreRecomputed (saveSnapshot used) routerStopped).router = routerStopped.router := by decide +kernel

/-- The last byte of each window, and the second alias page. -/
theorem test_witness_WindowsDecodeAddresses : routerOffset plat 0x400000FF = some 0xFF ∧ routerOffset plat 0x40000100 = none ∧
    mboxOffset plat 0x3F00B998 = some 0x98 ∧ mboxRawOffset plat 0x3F00B998 = some 0x198 ∧ mboxOffset plat 0x3F00BA00 = none := by decide

theorem test_witness_RejectedAccessIsDecodedFirst : 0x40 < 256 ∧ (AccessSize.one ≠ .four ∨ 0x40 % 4 ≠ 0) ∧ 255 < 256 ∧ (AccessSize.four ≠ .four ∨ 255 % 4 ≠ 0) := by decide

theorem test_witness_MboxDataIsLittleEndian : wordCells 0x10 0x12345678#32 = [(0x10, 0x78#8), (0x11, 0x56#8), (0x12, 0x34#8), (0x13, 0x12#8)] := by decide

end Sys2Proof.Tests
end

section
/-! PROOFS. RouterRecompute against its closed form (R120), and what follows: it reads no output, and running it again changes nothing. -/

namespace Sys2Proof.Machine

/-! ## Mailbox bits (R27) -/

theorem mailboxBits_getLsbD (r : Router) (c j : Core) : (r.mailboxBits c).getLsbD j.val = r.mailboxBit c j := by
  have bit_of_four : ∀ (f : Core → Bool) (j : Core),
      (allCores.foldl (fun v j => setBit v j.val (f j)) 0#4).getLsbD j.val = f j := by
    intro f j
    have : f = ![f 0, f 1, f 2, f 3] := by ext i; fin_cases i <;> rfl
    rw [this]
    generalize f 0 = a, f 1 = b, f 2 = d, f 3 = e
    revert a b d e j
    decide
  exact bit_of_four (r.mailboxBit c) j

/-! ## What the marking steps add to the snapshots -/

/-- From `r` to `q` each IRQ snapshot gained the bits of `irq` and each FIQ snapshot those of `fiq`; no input changed. -/
structure Marks (r q : Router) (irq fiq : Core → Snap) : Prop where
  sameInputs : SameInputs r q
  irqSource : ∀ d : Core, q.irqSource[d] = r.irqSource[d] ||| irq d
  fiqSource : ∀ d : Core, q.fiqSource[d] = r.fiqSource[d] ||| fiq d

theorem Marks.trans {r q p : Router} {irq fiq irq' fiq' : Core → Snap} (h : Marks r q irq fiq) (h' : Marks q p irq' fiq') :
    Marks r p (fun d => irq d ||| irq' d) (fun d => fiq d ||| fiq' d) where
  sameInputs := h.sameInputs.trans h'.sameInputs
  irqSource d := by rw [h'.irqSource, h.irqSource, BitVec.or_assoc]
  fiqSource d := by rw [h'.fiqSource, h.fiqSource, BitVec.or_assoc]

theorem Marks.refl (r : Router) : Marks r r (fun _ => 0#12) (fun _ => 0#12) where
  sameInputs := rfl
  irqSource _ := BitVec.or_zero.symm
  fiqSource _ := BitVec.or_zero.symm

/-- The snapshot bits in `mask`, in core `c` only. -/
def onCore (c : Core) (mask : Snap) (d : Core) : Snap := if d = c then mask else 0#12

/-- Snapshot bit `n`, if `b`. -/
def bitIf (b : Bool) (n : Nat) : Snap := if b then 1#12 <<< n else 0#12

theorem set_or_onCore (v : Vector Snap 4) (c d : Core) (mask : Snap) :
    (v.set c (v[c] ||| mask))[d] = v[d] ||| onCore c mask d := by
  by_cases h : d = c
  · simp [onCore, h]
  · have : c.val ≠ d.val := fun e => h (Fin.ext e.symm)
    simp [onCore, h, this]

theorem onCore_or (c : Core) (a b : Snap) (d : Core) : onCore c a d ||| onCore c b d = onCore c (a ||| b) d := by
  by_cases h : d = c <;> simp [onCore, h]

theorem foldl_onCore (g : Core → Snap) (d : Core) : allCores.foldl (fun v c => v ||| onCore c (g c) d) 0#12 = g d := by
  fin_cases d <;> simp [onCore]

theorem onCore_zero (c : Core) : onCore c 0#12 = fun _ => 0#12 := by
  funext d
  simp [onCore]

theorem markIrq_marks (r : Router) (c : Core) (n : Nat) : Marks r (markIrq c n r) (onCore c (1#12 <<< n)) (onCore c 0#12) where
  sameInputs := rfl
  irqSource d := set_or_onCore r.irqSource c d _
  fiqSource d := by rw [onCore_zero]; exact BitVec.or_zero.symm

theorem markFiq_marks (r : Router) (c : Core) (n : Nat) : Marks r (markFiq c n r) (onCore c 0#12) (onCore c (1#12 <<< n)) where
  sameInputs := rfl
  irqSource d := by rw [onCore_zero]; exact BitVec.or_zero.symm
  fiqSource d := set_or_onCore r.fiqSource c d _

/-- One source adds its bit to at most one snapshot of its core: FIQ first (R121). -/
theorem markSource_marks (r : Router) (a : Bool) (ctrl : BitVec 8) (c : Core) (k n : Nat) :
    Marks r (markSource a ctrl c k n r) (onCore c (bitIf (a && ctrl.getLsbD k && !ctrl.getLsbD (4 + k)) n))
      (onCore c (bitIf (a && ctrl.getLsbD (4 + k)) n)) := by
  unfold markSource
  cases a
  · simpa [bitIf, onCore_zero] using Marks.refl r
  · cases ctrl.getLsbD (4 + k)
    · cases ctrl.getLsbD k
      · simpa [bitIf, onCore_zero] using Marks.refl r
      · simpa [bitIf] using markIrq_marks r c n
    · simpa [bitIf] using markFiq_marks r c n

/-- A fold whose step `i` adds `irq i` and `fiq i`, on states with the inputs of `r`, adds all of them. -/
theorem foldl_marks {r : Router} {f : Core → Router → Router} {irq fiq : Core → Core → Snap}
    (hf : ∀ i q, SameInputs r q → Marks q (f i q) (irq i) (fiq i)) (l : List Core) :
    Marks r (l.foldl (fun q i => f i q) r) (fun d => l.foldl (fun v i => v ||| irq i d) 0#12)
      (fun d => l.foldl (fun v i => v ||| fiq i d) 0#12) := by
  induction l using List.reverseRecOn with
  | nil => exact Marks.refl r
  | append_singleton l i ih =>
    simp only [List.foldl_append, List.foldl_cons, List.foldl_nil]
    exact ih.trans (hf i _ ih.sameInputs)

/-- The bits of a nibble, one at a time, at bit `n` of a snapshot. -/
theorem nibble_eq_bits (v : BitVec 4) (n : Nat) :
    allCores.foldl (fun m i => m ||| bitIf (v.getLsbD i.val) (n + i.val)) 0#12 = v.setWidth 12 <<< n := by
  have at_zero : ∀ v : BitVec 4, allCores.foldl (fun m i => m ||| bitIf (v.getLsbD i.val) i.val) 0#12 = v.setWidth 12 := by decide
  have shifted : ∀ b k, bitIf b (n + k) = bitIf b k <<< n := by
    intro b k
    cases b
    · simp [bitIf]
    · simp [bitIf, Nat.add_comm n k, BitVec.shiftLeft_add]
  rw [← at_zero v]
  simp [shifted, BitVec.shiftLeft_or_distrib]

theorem foldl_or_onCore (c d : Core) (g : Core → Snap) :
    allCores.foldl (fun v i => v ||| onCore c (g i) d) 0#12 = onCore c (allCores.foldl (fun v i => v ||| g i) 0#12) d := by
  by_cases h : d = c <;> simp [onCore, h]

/-- The FIQ part of four sources: active and enabled for FIQ (R120). -/
def fiqNibble (active : BitVec 4) (ctrl : BitVec 8) : BitVec 4 := active &&& ctrl.extractLsb' 4 4

/-- The IRQ part of four sources: active, enabled for IRQ and not for FIQ (R120). -/
def irqNibble (active : BitVec 4) (ctrl : BitVec 8) : BitVec 4 := active &&& ctrl.extractLsb' 0 4 &&& ~~~(ctrl.extractLsb' 4 4)

/-- The local and mailbox sources of core `c` that reach its IRQ snapshot (R120). -/
def Router.irqSources (r : Router) (c : Core) : Snap :=
  (irqNibble r.localIrqBits[c] r.localRouteCtrl[c]).setWidth 12 <<< 0 |||
    (irqNibble (r.mailboxBits c) r.mailboxRouteCtrl[c]).setWidth 12 <<< 4

/-- The local and mailbox sources of core `c` that reach its FIQ snapshot (R120). -/
def Router.fiqSources (r : Router) (c : Core) : Snap :=
  (fiqNibble r.localIrqBits[c] r.localRouteCtrl[c]).setWidth 12 <<< 0 |||
    (fiqNibble (r.mailboxBits c) r.mailboxRouteCtrl[c]).setWidth 12 <<< 4

/-- The GPU IRQ's bit of each IRQ snapshot (R122). -/
def Router.gpuIrqBit (r : Router) : Core → Snap := onCore (routeCore r.gpuIrqRoute) (bitIf r.gpuIrqLevel 8)

/-- The GPU FIQ's bit of each FIQ snapshot (R122). -/
def Router.gpuFiqBit (r : Router) : Core → Snap := onCore (routeCore r.gpuFiqRoute) (bitIf r.gpuFiqLevel 8)

/-- Four sources of core `c`, at bit `n` of its snapshots. -/
theorem foldl_markSource_marks {r : Router} {c : Core} {active : BitVec 4} {ctrl : BitVec 8} {n : Nat} {f : Core → Router → Router}
    (hf : ∀ i q, SameInputs r q → f i q = markSource (active.getLsbD i.val) ctrl c i.val (n + i.val) q) :
    Marks r (allCores.foldl (fun q i => f i q) r) (onCore c ((irqNibble active ctrl).setWidth 12 <<< n))
      (onCore c ((fiqNibble active ctrl).setWidth 12 <<< n)) := by
  have h := foldl_marks (f := f) (fun i q hq => hf i q hq ▸ markSource_marks q (active.getLsbD i.val) ctrl c i.val (n + i.val)) allCores
  simp only [foldl_or_onCore] at h
  have irq_bits : ∀ i : Core, (active.getLsbD i.val && ctrl.getLsbD i.val && !ctrl.getLsbD (4 + i.val)) =
      (irqNibble active ctrl).getLsbD i.val := by
    intro i
    simp [irqNibble]
  have fiq_bits : ∀ i : Core, (active.getLsbD i.val && ctrl.getLsbD (4 + i.val)) = (fiqNibble active ctrl).getLsbD i.val := by
    intro i
    simp [fiqNibble]
  simp only [irq_bits, fiq_bits, nibble_eq_bits] at h
  exact h

section
/-! Each step on a router `q` adds what the inputs say, and those are the inputs of the router `r` the recompute began with. -/

variable {r q : Router} (hq : SameInputs r q)
include hq

/-- Step 4 for core `c` (R120): its local sources. -/
theorem markLocal_marks (c : Core) :
    Marks q (markLocal c q) (onCore c ((irqNibble r.localIrqBits[c] r.localRouteCtrl[c]).setWidth 12 <<< 0))
      (onCore c ((fiqNibble r.localIrqBits[c] r.localRouteCtrl[c]).setWidth 12 <<< 0)) := by
  refine foldl_markSource_marks fun i p hp => ?_
  have h := hq.trans hp
  rw [SameInputs] at h
  rw [h, Nat.zero_add]

/-- Step 5 for core `c` (R120): its mailbox sources. -/
theorem markMailbox_marks (c : Core) :
    Marks q (markMailbox c q) (onCore c ((irqNibble (r.mailboxBits c) r.mailboxRouteCtrl[c]).setWidth 12 <<< 4))
      (onCore c ((fiqNibble (r.mailboxBits c) r.mailboxRouteCtrl[c]).setWidth 12 <<< 4)) := by
  refine foldl_markSource_marks fun i p hp => ?_
  have h := hq.trans hp
  rw [SameInputs] at h
  rw [h, mailboxBits_getLsbD]
  rfl

/-- Steps 4 and 5 for core `c`. -/
theorem markCore_marks (c : Core) :
    Marks q (markMailbox c (markLocal c q)) (onCore c (r.irqSources c)) (onCore c (r.fiqSources c)) := by
  have h := (markLocal_marks hq c).trans (markMailbox_marks (hq.trans (markLocal_sameInputs q c)) c)
  simp only [onCore_or] at h
  exact h

/-- Steps 4 and 5 for every core. -/
theorem markCores_marks :
    Marks q (allCores.foldl (fun q c => markMailbox c (markLocal c q)) q) r.irqSources r.fiqSources := by
  have h := foldl_marks (f := fun c q => markMailbox c (markLocal c q)) (fun c p hp => markCore_marks (hq.trans hp) c) allCores
  simp only [foldl_onCore] at h
  exact h

/-- Step 2 (R122). -/
theorem markGpuIrq_marks : Marks q (markGpuIrq q) r.gpuIrqBit (fun _ => 0#12) := by
  rw [SameInputs] at hq
  unfold markGpuIrq Router.gpuIrqBit
  rw [hq]
  cases r.gpuIrqLevel
  · simpa [bitIf, onCore_zero] using Marks.refl _
  · simpa [bitIf, onCore_zero] using markIrq_marks _ (routeCore r.gpuIrqRoute) 8

/-- Step 3 (R122). -/
theorem markGpuFiq_marks : Marks q (markGpuFiq q) (fun _ => 0#12) r.gpuFiqBit := by
  rw [SameInputs] at hq
  unfold markGpuFiq Router.gpuFiqBit
  rw [hq]
  cases r.gpuFiqLevel
  · simpa [bitIf, onCore_zero] using Marks.refl _
  · simpa [bitIf, onCore_zero] using markFiq_marks _ (routeCore r.gpuFiqRoute) 8

end

/-! ## The closed form -/

theorem irqClosed_eq (r : Router) (d : Core) : r.irqClosed d = r.gpuIrqBit d ||| r.irqSources d := by
  rw [BitVec.or_comm]
  by_cases h : d = routeCore r.gpuIrqRoute
  · simp [Router.irqClosed, Router.irqSources, Router.gpuIrqBit, irqNibble, onCore, bitIf, h]
  · simp [Router.irqClosed, Router.irqSources, Router.gpuIrqBit, irqNibble, onCore, h, Ne.symm h]

theorem fiqClosed_eq (r : Router) (d : Core) : r.fiqClosed d = r.gpuFiqBit d ||| r.fiqSources d := by
  rw [BitVec.or_comm]
  by_cases h : d = routeCore r.gpuFiqRoute
  · simp [Router.fiqClosed, Router.fiqSources, Router.gpuFiqBit, fiqNibble, onCore, bitIf, h]
  · simp [Router.fiqClosed, Router.fiqSources, Router.gpuFiqBit, fiqNibble, onCore, h, Ne.symm h]

/-- Steps 2 to 5 of RouterRecompute, on the cleared snapshots. -/
def markAll (r : Router) : Router :=
  allCores.foldl (fun r c => markMailbox c (markLocal c r)) (markGpuFiq (markGpuIrq (clearSources r)))

theorem markAll_marks (r : Router) : Marks (clearSources r) (markAll r) r.irqClosed r.fiqClosed := by
  have hi := markGpuIrq_marks (r := r) (q := clearSources r) rfl
  have hf := markGpuFiq_marks (SameInputs.trans (r := r) rfl hi.sameInputs)
  have h := (hi.trans hf).trans (markCores_marks (SameInputs.trans (r := r) rfl (hi.trans hf).sameInputs))
  simpa [markAll, ← irqClosed_eq, ← fiqClosed_eq] using h

/-- Step 6 drives each line to the OR of its snapshot and leaves the snapshots (R123). -/
theorem driveCores_eq (r : Router) (c : Core) :
    let q := allCores.foldl (fun r c => driveCore c r) r
    q.irqSource = r.irqSource ∧ q.fiqSource = r.fiqSource ∧
      q.irqOut[c] = (r.irqSource[c] != 0#12) ∧ q.fiqOut[c] = (r.fiqSource[c] != 0#12) := by
  refine ⟨rfl, rfl, ?_, ?_⟩ <;> fin_cases c <;> simp [driveCore]

theorem routerRecompute_eq (r : Router) : routerRecompute r = allCores.foldl (fun r c => driveCore c r) (markAll r) := by
  unfold routerRecompute
  rfl

/-- The six steps of RouterRecompute give the closed form (R120). -/
theorem routerRecompute_closed (r : Router) (c : Core) :
    (routerRecompute r).irqSource[c] = r.irqClosed c ∧ (routerRecompute r).fiqSource[c] = r.fiqClosed c ∧
      (routerRecompute r).irqOut[c] = (r.irqClosed c != 0#12) ∧ (routerRecompute r).fiqOut[c] = (r.fiqClosed c != 0#12) := by
  have hm := markAll_marks r
  have hi : (markAll r).irqSource[c] = r.irqClosed c := by
    rw [hm.irqSource]
    simp [clearSources]
  have hf : (markAll r).fiqSource[c] = r.fiqClosed c := by
    rw [hm.fiqSource]
    simp [clearSources]
  obtain ⟨irqSource, fiqSource, irqOut, fiqOut⟩ := driveCores_eq (markAll r) c
  rw [routerRecompute_eq, irqSource, fiqSource, irqOut, fiqOut, hi, hf]
  exact ⟨rfl, rfl, rfl, rfl⟩

theorem SameInputs.irqClosed {r q : Router} (h : SameInputs r q) (c : Core) : q.irqClosed c = r.irqClosed c := by
  rw [SameInputs] at h
  rw [h]
  rfl

theorem SameInputs.fiqClosed {r q : Router} (h : SameInputs r q) (c : Core) : q.fiqClosed c = r.fiqClosed c := by
  rw [SameInputs] at h
  rw [h]
  rfl

theorem ext_core {α : Type} {v w : Vector α 4} (h : ∀ c : Core, v[c] = w[c]) : v = w :=
  Vector.ext fun n hn => h ⟨n, hn⟩

/-- RouterRecompute reads no snapshot and no line: the inputs alone decide its result. -/
theorem routerRecompute_congr {r q : Router} (h : SameInputs r q) : routerRecompute q = routerRecompute r := by
  have irqSource : (routerRecompute q).irqSource = (routerRecompute r).irqSource :=
    ext_core fun c => by simp only [routerRecompute_closed, h.irqClosed]
  have fiqSource : (routerRecompute q).fiqSource = (routerRecompute r).fiqSource :=
    ext_core fun c => by simp only [routerRecompute_closed, h.fiqClosed]
  have irqOut : (routerRecompute q).irqOut = (routerRecompute r).irqOut :=
    ext_core fun c => by simp only [routerRecompute_closed, h.irqClosed]
  have fiqOut : (routerRecompute q).fiqOut = (routerRecompute r).fiqOut :=
    ext_core fun c => by simp only [routerRecompute_closed, h.fiqClosed]
  rw [routerRecompute_sameInputs q, routerRecompute_sameInputs r, irqSource, fiqSource, irqOut, fiqOut]
  rw [SameInputs] at h
  rw [h]

/-- After RouterRecompute the snapshots and lines are not stale (R28, R29). -/
theorem routerRecompute_fresh (r : Router) : (routerRecompute r).Fresh := routerRecompute_congr (routerRecompute_sameInputs r)

/-- One bit of a word, set if `b`. -/
theorem getLsbD_flag {w k : Nat} (hk : k < w) (b : Bool) (n : Nat) :
    (if b then 1#w <<< k else 0#w).getLsbD n = (b && decide (n = k)) := by
  have oneBit := BitVec.getLsbD_twoPow (w := w) k n
  rw [BitVec.twoPow] at oneBit
  cases b
  · simp
  · simp [oneBit, hk, eq_comm]

/-- A snapshot made of four low bits, four bits from 4 on, and bit 8, bit by bit (R28). -/
theorem snapshot_getLsbD (x y : BitVec 4) (b : Bool) (n : Nat) :
    (x.setWidth 12 ||| y.setWidth 12 <<< 4 ||| (if b then 1#12 <<< 8 else 0#12)).getLsbD n =
      (x.getLsbD n || (decide (4 ≤ n) && y.getLsbD (n - 4)) || (b && decide (n = 8))) := by
  rw [BitVec.getLsbD_or, BitVec.getLsbD_or, getLsbD_flag (by decide)]
  by_cases h4 : n < 4
  · simp [h4, show n < 12 by omega, show ¬4 ≤ n by omega]
  · by_cases h12 : n < 12
    · simp [h4, h12, show 4 ≤ n by omega]
    · simp [h4, h12, BitVec.getLsbD_of_ge x n (by omega), BitVec.getLsbD_of_ge y (n - 4) (by omega)]

/-- Settles O16: no nibble and no GPU bit reaches past bit 8, and the IRQ nibbles leave out what the FIQ nibbles enable. -/
theorem snapshotLayout : Obligations.SnapshotLayout := by
  intro r c n
  simp only [routerRecompute_closed, Router.irqClosed, Router.fiqClosed, snapshot_getLsbD]
  refine ⟨fun hn => ?_, fun hn => ?_⟩
  · have inWidth {z : BitVec 4} {m : Nat} (h : 4 ≤ m) : z.getLsbD m = false := BitVec.getLsbD_of_ge z m h
    simp [inWidth (show 4 ≤ n by omega), inWidth (show 4 ≤ n - 4 by omega), show n ≠ 8 by omega]
  · by_cases h4 : n < 4
    · simp [h4, show n ≠ 8 by omega, show ¬4 ≤ n by omega]
      exact fun _ _ notFiq _ => notFiq
    · simp [show n ≠ 8 by omega, show 4 ≤ n by omega, show n - 4 < 4 by omega]
      exact fun _ _ notFiq _ => notFiq

/-- Settles O17: the fold of R27 puts each word's test in its own bit. -/
theorem mailboxBitsAreNonzeroWords : Obligations.MailboxBitsAreNonzeroWords := by
  intro r c j
  rw [mailboxBits_getLsbD]
  exact bne_iff_ne

/-- Settles O22: between events the snapshots are what RouterRecompute gives, which is the closed form. -/
theorem sourceReadsAreNeverStale : Obligations.SourceReadsAreNeverStale := by
  intro s c ⟨fresh, _⟩ running
  have closed := routerRecompute_closed s.router c
  rw [fresh] at closed
  obtain ⟨irqSource, fiqSource, -⟩ := closed
  rw [exec_rdIrqSource, exec_rdFiqSource, onEvent_next, onEvent_next]
  simp [running, reply, irqSource, fiqSource]

/-- Settles O32: FULL and EMPTY exclude each other, so at most one bit is set. -/
theorem statusWordBits : Obligations.StatusWordBits := by
  intro q n
  rw [Queue.status, BitVec.getLsbD_or, getLsbD_flag (by decide), getLsbD_flag (by decide)]
  simp [Queue.isFull, Queue.isEmpty, and_comm]

end Sys2Proof.Machine
end

section
/-! PROOFS. What every event keeps: a property that each operation of an event keeps holds after the event. -/

namespace Sys2Proof.Machine

/-! ## The effect of an event -/

/-- What RD_POP does to the state (R200). -/
def popEffect (s : State) : State :=
  if s.mbox.rq.isEmpty then recomputeThenReply s.platform.sentinel s
  else recomputeThenReply s.mbox.rq.reg[0] (pullRq s)

/-- What WR_PUSH does to the state (R207). -/
def pushEffect (r : Fin 4) (w : Word) (s : State) : State :=
  unlessStopped .mbox mboxRecompute
    (if s.mbox.wq.isFull then logDiag .mbox .mboxWqFull (pushOffset r) w s
     else if 8 < pushChannelField w then logDiag .mbox .mboxInvalidChannel (pushOffset r) w s
     else pushToChannel w s)

/-- The effect of an event on the state of a machine whose block takes it; `exec_eq` ties it to the step. -/
def effect : Instr → State → State
  | .rdGpuRoute, s => reply (gpuRouteWord s.router) s
  | .wrGpuRoute w, s => updateRouter (fun r => { r with gpuIrqRoute := gpuIrqField w, gpuFiqRoute := gpuFiqField w }) s
  | .rdLocalRouteCtrl c, s => reply (s.router.localRouteCtrl[c].setWidth 32) s
  | .wrLocalRouteCtrl c w, s => updateRouter (fun r => { r with localRouteCtrl := r.localRouteCtrl.set c (ctrlField w) }) s
  | .rdMboxRouteCtrl c, s => reply (s.router.mailboxRouteCtrl[c].setWidth 32) s
  | .wrMboxRouteCtrl c w, s => updateRouter (fun r => { r with mailboxRouteCtrl := r.mailboxRouteCtrl.set c (ctrlField w) }) s
  | .rdIrqSource c, s => reply (s.router.irqSource[c].setWidth 32) s
  | .rdFiqSource c, s => reply (s.router.fiqSource[c].setWidth 32) s
  | .wrMboxSet m w, s => updateRouter (fun r => { r with mboxWord := r.mboxWord.set m (r.mboxWord[m] ||| w) }) s
  | .rdMbox m, s => reply s.router.mboxWord[m] s
  | .wrMboxClr m w, s => updateRouter (fun r => { r with mboxWord := r.mboxWord.set m (r.mboxWord[m] &&& ~~~w) }) s
  | .rdRouterBad off, s => reply 0#32 (logDiag .router .routerBadRead off 0#32 s)
  | .wrRouterBad off w, s => updateRouter id (logDiag .router .routerBadWrite off w s)
  | .routerBadAccess .read _ off _, s => reply 0#32 (logDiag .router .badAccess off 0#32 s)
  | .routerBadAccess .write _ off w, s => logDiag .router .badAccess off w s
  | .rdPop _, s => popEffect s
  | .rdPeek, s => recomputeThenReply s.mbox.rq.reg[0] s
  | .rdSender, s => recomputeThenReply 0#32 s
  | .rdStatus0, s => reply s.mbox.rq.status s
  | .rdConfig, s => recomputeThenReply (configWord s.mbox) s
  | .rdStatus1, s => reply s.mbox.wq.status s
  | .wrConfig w, s => mboxRecompute { s with mbox := { s.mbox with configIrqEn := configField w } }
  | .wrPush r w, s => pushEffect r w s
  | .rdMboxBad off, s => reply 0#32 (logDiag .mbox .mboxBadRead off 0#32 s)
  | .wrMboxBad off w, s => logDiag .mbox .mboxBadWrite off w s
  | .mboxBadAccess .read _ off _, s => reply 0#32 (logDiag .mbox .badAccess off 0#32 s)
  | .mboxBadAccess .write _ off w, s => logDiag .mbox .badAccess off w s
  | .sigLocalIrq c i l, s => sigLocalIrq c i l s
  | .sigGpuIrq l, s => sigGpuIrq l s
  | .sigGpuFiq l, s => sigGpuFiq l s
  | .sigChannelAvailable ch l, s => sigChannel mboxRecompute ch l s
  | .resetRouter, s => updateRouter clearRouter s
  | .resetMbox, s => mboxRecompute { s with mbox := clearMbox s.platform.sentinel s.mbox }
  | .reservedKey _, s => s

/-- An event of a block is its effect in that block's frame. -/
theorem exec_eq {i : Instr} {b : Block} (hb : eventBlock i = some b) (s : State) : exec i s = onEvent b (effect i) s := by
  cases i with
  | reservedKey _ => cases hb
  | routerBadAccess kind _ _ _ | mboxBadAccess kind _ _ _ => cases hb; cases kind <;> rfl
  | _ => cases hb; rfl

/-- An event that has a next state is an event of a running block, and that state is its effect. -/
theorem exec_next {i : Instr} {s t : State} (he : exec i s = .next t) :
    ∃ b, eventBlock i = some b ∧ stopped b s = false ∧ t = effect i { s with rdata := none } := by
  cases hb : eventBlock i with
  | none =>
    cases i <;> cases hb
    cases he
  | some b =>
    rw [exec_eq hb, onEvent_next] at he
    exact ⟨b, rfl, he⟩

/-! ## What an event's operations keep -/

/-- The router registers that no signal changes. -/
abbrev SameRegisters (r q : Router) : Prop :=
  q.localRouteCtrl = r.localRouteCtrl ∧ q.mailboxRouteCtrl = r.mailboxRouteCtrl ∧ q.mboxWord = r.mboxWord ∧
    q.gpuIrqRoute = r.gpuIrqRoute ∧ q.gpuFiqRoute = r.gpuFiqRoute

/-- `P` is kept by what MboxRecompute does: its accesses as a whole, its pushes, the guard and the line (R173). -/
structure RecomputeKeeps (P : State → Prop) : Prop where
  drainAccess : ∀ req {s}, P s → P (memAccess deliverInDrain req s)
  push : ∀ v {s}, s.mbox.rq.count < 32 → P s → P { s with mbox := { s.mbox with rq := s.mbox.rq.push v } }
  fatal : ∀ k {s}, P s → P (raiseFatal .mbox k s)
  setGuard : ∀ b {s}, P s → P (setGuard b s)
  driveIrq : ∀ {s}, P s → P (driveMboxIrq s)

/-- `P` is kept by what the mailbox events do, but for the three writes that only one kind of event makes. -/
structure MboxKeeps (P : State → Prop) : Prop extends RecomputeKeeps P where
  pushAccess : ∀ req {s}, P s → P (memAccess deliverInPush req s)
  pull : ∀ {s}, s.mbox.rq.count ≠ 0 → P s → P { s with mbox := { s.mbox with rq := s.mbox.rq.pull s.platform.sentinel } }
  setChannel : ∀ ch l {s}, P s → P (setChannel ch l s)
  log : ∀ k off v {s}, P s → P (logDiag .mbox k off v s)
  reply : ∀ v {s}, P s → P (reply v s)

/-- `P` is kept by the single operations of the mailbox events, each step of an access and each nested signal apart. -/
structure OpKeeps (P : State → Prop) : Prop where
  answer : ∀ req {s}, P s → P (useAnswer req s)
  latch : ∀ {f} {s}, (∀ r, SameRegisters r (f r)) → P s → P (updateRouter f s)
  routerFatal : ∀ k {s}, P s → P (raiseFatal .router k s)
  push : ∀ v {s}, s.mbox.rq.count < 32 → P s → P { s with mbox := { s.mbox with rq := s.mbox.rq.push v } }
  fatal : ∀ k {s}, P s → P (raiseFatal .mbox k s)
  setGuard : ∀ b {s}, P s → P (setGuard b s)
  driveIrq : ∀ {s}, P s → P (driveMboxIrq s)
  pull : ∀ {s}, s.mbox.rq.count ≠ 0 → P s → P { s with mbox := { s.mbox with rq := s.mbox.rq.pull s.platform.sentinel } }
  setChannel : ∀ ch l {s}, P s → P (setChannel ch l s)
  log : ∀ k off v {s}, P s → P (logDiag .mbox k off v s)
  reply : ∀ v {s}, P s → P (reply v s)

/-- `P` is kept by queueing `w` in `wq`, which only a push does (R207). -/
abbrev KeepsWqPush (P : State → Prop) (w : Word) : Prop :=
  ∀ s : State, s.mbox.wq.count < 32 → P s → P { s with mbox := { s.mbox with wq := s.mbox.wq.push w } }

theorem unlessStopped_keeps {P : State → Prop} {b : Block} {f : State → State} {s : State} (hf : P s → P (f s)) (h : P s) :
    P (unlessStopped b f s) := by
  obtain ⟨-, he⟩ | ⟨-, he⟩ := unlessStopped_cases s b f
  · rwa [he]
  · rw [he]
    exact hf h

theorem sigChannel_keeps (P : State → Prop) {recompute : State → State} {l : Bool}
    (set : ∀ ch {s}, P s → P (setChannel ch l s)) (fatal : ∀ {s}, P s → P (raiseFatal .mbox .signalIndex s))
    (run : ∀ {s}, P s → P (recompute s)) (ch : Fin 16) {s : State} (h : P s) : P (sigChannel recompute ch l s) := by
  unfold sigChannel
  split
  · dsimp only
    split
    · exact set _ h
    · exact run (set _ h)
  · exact fatal h

namespace RecomputeKeeps

variable {P : State → Prop} (hP : RecomputeKeeps P) {s : State}
include hP

theorem pushRq (v : Word) (h : P s) : P (pushRq v s) := by
  by_cases room : s.mbox.rq.count < 32
  · rw [pushRq_of_room room]
    exact hP.push v room h
  · rw [Machine.pushRq, if_pos (Nat.not_lt.mp room)]
    exact hP.fatal _ h

theorem drainScan (chs : List Channel) (h : P s) : P (drainScan chs s).2 := by
  induction chs generalizing s with
  | nil => exact h
  | cons ch rest ih =>
    cases available : s.mbox.channelAvailable[ch] with
    | false =>
      rw [drainScan_unavailable rest available]
      exact ih h
    | true =>
      have ha := hP.drainAccess (.read (payloadAddr ch.val)) h
      obtain ⟨-, he⟩ | ⟨-, -, he⟩ | ⟨-, -, he⟩ := drainScan_available rest available
      · rwa [he]
      · rw [he]
        exact hP.pushRq _ ha
      · rw [he]
        exact ih ha

theorem drainLoop (n : Nat) (h : P s) : P (drainLoop n s) := by
  induction n generalizing s with
  | zero => exact h
  | succ n ih =>
    have scanned := hP.drainScan allChannels h
    unfold Machine.drainLoop
    split
    · exact h
    · split
      · next s' pulled =>
        rw [pulled] at scanned
        split
        · exact scanned
        · exact ih scanned
      · next s' ended =>
        rwa [ended] at scanned

theorem mboxRecompute (h : P s) : P (mboxRecompute s) := by
  have drained := hP.drainLoop drainPasses (hP.setGuard true h)
  obtain ⟨-, he⟩ | ⟨-, he⟩ := mboxRecompute_cases s
  · rwa [he]
  · rw [he]
    exact hP.driveIrq (hP.setGuard false drained)

end RecomputeKeeps

namespace OpKeeps

variable {P : State → Prop} (hP : OpKeeps P) {s : State}
include hP

theorem sigLocalIrq (c : Fin 16) (i : Fin 4) (l : Bool) (h : P s) : P (sigLocalIrq c i l s) := by
  unfold Machine.sigLocalIrq
  split
  · exact hP.latch (fun _ => ⟨rfl, rfl, rfl, rfl, rfl⟩) h
  · exact hP.routerFatal _ h

theorem deliverSignal {recompute : State → State} (hr : ∀ {s}, P s → P (recompute s)) (sig : Signal) (h : P s) :
    P (deliverSignal recompute sig s) := by
  cases sig with
  | localIrq c i l => exact unlessStopped_keeps (hP.sigLocalIrq c i l) h
  | gpuIrq l => exact unlessStopped_keeps (hP.latch fun _ => ⟨rfl, rfl, rfl, rfl, rfl⟩) h
  | gpuFiq l => exact unlessStopped_keeps (hP.latch fun _ => ⟨rfl, rfl, rfl, rfl, rfl⟩) h
  | channel ch l => exact unlessStopped_keeps (sigChannel_keeps P (hP.setChannel · l) (hP.fatal _) hr ch) h

theorem recomputeKeeps : RecomputeKeeps P where
  drainAccess req _ h := memAccess_induct (fun sig _ => hP.deliverSignal id sig) req (hP.answer req h)
  push := hP.push
  fatal := hP.fatal
  setGuard := hP.setGuard
  driveIrq := hP.driveIrq

theorem deliverInPush (sig : Signal) (h : P s) : P (deliverInPush sig s) :=
  hP.deliverSignal hP.recomputeKeeps.mboxRecompute sig h

theorem mboxKeeps : MboxKeeps P where
  toRecomputeKeeps := hP.recomputeKeeps
  pushAccess req _ h := memAccess_induct (fun sig _ => hP.deliverInPush sig) req (hP.answer req h)
  pull := hP.pull
  setChannel := hP.setChannel
  log := hP.log
  reply := hP.reply

end OpKeeps

/-! ## Mailbox events -/

namespace MboxKeeps

variable {P : State → Prop} (hP : MboxKeeps P) {s : State}
include hP

theorem recomputeThenReply (v : Word) (h : P s) : P (recomputeThenReply v s) :=
  unlessStopped_keeps (hP.reply v) (hP.mboxRecompute h)

theorem pushWq {w : Word} (push : KeepsWqPush P w) (h : P s) :
    P (pushWq w s) := by
  by_cases room : s.mbox.wq.count < 32
  · rw [pushWq_of_room room]
    exact push s room h
  · rw [Machine.pushWq, if_pos (Nat.not_lt.mp room)]
    exact hP.fatal _ h

theorem pushToChannel {w : Word} (push : KeepsWqPush P w) (h : P s) :
    P (pushToChannel w s) := by
  unfold Machine.pushToChannel
  refine unlessStopped_keeps (fun h => ?_) (hP.pushAccess _ h)
  split
  · exact hP.pushWq push h
  · exact hP.pushAccess _ h

theorem wrPush (r : Fin 4) {w : Word} (push : KeepsWqPush P w) (h : P s) :
    P (pushEffect r w s) := by
  refine unlessStopped_keeps hP.mboxRecompute ?_
  split
  · exact hP.log _ _ _ h
  · split
    · exact hP.log _ _ _ h
    · exact hP.pushToChannel push h

theorem rdPop (h : P s) : P (popEffect s) := by
  unfold popEffect
  split
  · exact hP.recomputeThenReply _ h
  · next entry =>
    have nonempty : s.mbox.rq.count ≠ 0 := by simpa [Queue.isEmpty] using entry
    rw [pullRq_of_entry nonempty]
    exact hP.recomputeThenReply _ (hP.pull nonempty h)

/-- What the operations of the mailbox events keep, each mailbox event keeps. -/
theorem effect {i : Instr} (hb : eventBlock i = some .mbox)
    (push : ∀ r w, i = .wrPush r w → KeepsWqPush P w)
    (config : ∀ w, i = .wrConfig w → ∀ {s}, P s → P { s with mbox := { s.mbox with configIrqEn := configField w } })
    (reset : i = .resetMbox → ∀ {s}, P s → P { s with mbox := clearMbox s.platform.sentinel s.mbox })
    (h : P s) : P (effect i s) := by
  cases i with
  | rdPop r => exact hP.rdPop h
  | rdPeek => exact hP.recomputeThenReply _ h
  | rdSender => exact hP.recomputeThenReply _ h
  | rdStatus0 => exact hP.reply _ h
  | rdConfig => exact hP.recomputeThenReply _ h
  | rdStatus1 => exact hP.reply _ h
  | wrConfig w => exact hP.mboxRecompute (config w rfl h)
  | wrPush r w => exact hP.wrPush r (push r w rfl) h
  | rdMboxBad off => exact hP.reply _ (hP.log _ _ _ h)
  | wrMboxBad off w => exact hP.log _ _ _ h
  | mboxBadAccess kind size off w =>
    cases kind with
    | read => exact hP.reply _ (hP.log _ _ _ h)
    | write => exact hP.log _ _ _ h
  | sigChannelAvailable ch l => exact sigChannel_keeps P (hP.setChannel · l) (hP.fatal _) hP.mboxRecompute ch h
  | resetMbox => exact hP.mboxRecompute (reset rfl h)
  | _ => cases hb

end MboxKeeps

/-! ## Router events -/

/-- `P` is kept by what the router events do. -/
structure RouterKeeps (P : State → Prop) : Prop where
  update : ∀ f {s}, P s → P (updateRouter f s)
  fatal : ∀ k {s}, P s → P (raiseFatal .router k s)
  log : ∀ k off v {s}, P s → P (logDiag .router k off v s)
  reply : ∀ v {s}, P s → P (reply v s)

/-- What the operations of the router events keep, each router event keeps. -/
theorem RouterKeeps.effect {P : State → Prop} (hP : RouterKeeps P) {i : Instr} (hb : eventBlock i = some .router) {s : State}
    (h : P s) : P (effect i s) := by
  cases i with
  | rdGpuRoute | rdLocalRouteCtrl c | rdMboxRouteCtrl c | rdIrqSource c | rdFiqSource c | rdMbox m => exact hP.reply _ h
  | wrGpuRoute w | wrLocalRouteCtrl c w | wrMboxRouteCtrl c w | wrMboxSet m w | wrMboxClr m w | resetRouter =>
    unfold Machine.effect
    exact hP.update _ h
  | rdRouterBad off => exact hP.reply _ (hP.log _ _ _ h)
  | wrRouterBad off w => exact hP.update _ (hP.log _ _ _ h)
  | routerBadAccess kind size off w =>
    cases kind with
    | read => exact hP.reply _ (hP.log _ _ _ h)
    | write => exact hP.log _ _ _ h
  | sigLocalIrq c i l =>
    show P (sigLocalIrq c i l s)
    unfold sigLocalIrq
    split
    · exact hP.update _ h
    · exact hP.fatal _ h
  | sigGpuIrq l | sigGpuFiq l =>
    unfold Machine.effect
    exact hP.update _ h
  | _ => cases hb

/-! ## The queues keep the invariant of R31 -/

theorem Queue.empty_ok (sentinel : Word) : (Queue.empty sentinel).Ok sentinel := by
  simp [Queue.Ok, Queue.empty]

theorem Queue.push_ok {sentinel v : Word} {q : Queue} (room : q.count < 32) (h : q.Ok sentinel) : (q.push v).Ok sentinel := by
  obtain ⟨-, free⟩ := h
  refine ⟨room, fun n hn => ?_⟩
  simp only [Queue.push] at hn ⊢
  have : q.count ≠ n.val := by omega
  simpa [Vector.getElem_setIfInBounds, this] using free n (by omega)

/-- The compaction of the first `m` slots leaves the slots from `m` on. -/
theorem compaction_getElem (sentinel : Word) (reg : Vector Word 32) (m : Nat) (n : Fin 32) (h : m ≤ n.val) :
    ((List.range m).foldl (fun reg n => reg.setIfInBounds n (slotAt sentinel reg (n + 1))) reg)[n] = reg[n] := by
  induction m with
  | zero => rfl
  | succ m ih =>
    have : m ≠ n.val := by omega
    simpa [List.range_succ, Vector.getElem_setIfInBounds, this] using ih (by omega)

theorem Queue.pull_ok {sentinel : Word} {q : Queue} (h : q.Ok sentinel) : (q.pull sentinel).Ok sentinel := by
  obtain ⟨bound, free⟩ := h
  simp only [Queue.Ok, Queue.pull, Config.qcap] at *
  refine ⟨by omega, fun n hn => ?_⟩
  by_cases vacated : q.count - 1 = n.val
  · simp [vacated]
  · have moved := compaction_getElem sentinel q.reg (q.count - 1) n hn
    rw [free n (by omega)] at moved
    simpa [Vector.getElem_setIfInBounds, vacated] using moved

/-! ## The part of the invariant that holds inside events too -/

/-- Snapshots and lines not stale (R28, R29) and free queue slots holding the sentinel (R31): this holds between the operations of an event. -/
structure Sound (s : State) : Prop where
  router : s.router.Fresh
  rq : s.mbox.rq.Ok s.platform.sentinel
  wq : s.mbox.wq.Ok s.platform.sentinel

theorem sound_opKeeps : OpKeeps Sound where
  answer _ _ h := ⟨h.router, h.rq, h.wq⟩
  latch _ h := ⟨routerRecompute_fresh _, h.rq, h.wq⟩
  routerFatal _ _ h := ⟨h.router, h.rq, h.wq⟩
  push _ _ room h := ⟨h.router, Queue.push_ok room h.rq, h.wq⟩
  fatal _ _ h := ⟨h.router, h.rq, h.wq⟩
  setGuard _ _ h := ⟨h.router, h.rq, h.wq⟩
  driveIrq h := ⟨h.router, h.rq, h.wq⟩
  pull _ h := ⟨h.router, Queue.pull_ok h.rq, h.wq⟩
  setChannel _ _ _ h := ⟨h.router, h.rq, h.wq⟩
  log _ _ _ _ h := ⟨h.router, h.rq, h.wq⟩
  reply _ _ h := ⟨h.router, h.rq, h.wq⟩

/-! ## The guard and the line after an event -/

theorem mboxRecompute_settled (s : State) : MboxSettled (mboxRecompute s) := by
  intro running
  obtain ⟨stops, he⟩ | ⟨-, he⟩ := mboxRecompute_cases s
  · rw [he] at running
    exact absurd running stops
  · rw [he]
    exact ⟨rfl, rfl⟩

theorem unlessStopped_settled {f : State → State} (hf : ∀ s, MboxSettled (f s)) (s : State) : MboxSettled (unlessStopped .mbox f s) := by
  obtain ⟨stops, he⟩ | ⟨-, he⟩ := unlessStopped_cases s .mbox f
  · rw [he]
    intro running
    simp [running] at stops
  · rw [he]
    exact hf s

theorem recomputeThenReply_settled (v : Word) (s : State) : MboxSettled (recomputeThenReply v s) :=
  unlessStopped_keeps (fun h => h) (mboxRecompute_settled s)

/-- A mailbox event ends in a recompute, stops the block, or changes neither guard, queue, enable nor line (R177). -/
theorem mboxEffect_settled {i : Instr} (hb : eventBlock i = some .mbox) {s : State} (running : s.mboxFatal = none)
    (h : MboxSettled s) : MboxSettled (effect i s) := by
  cases i with
  | rdPop r =>
    show MboxSettled (popEffect s)
    unfold popEffect
    split <;> exact recomputeThenReply_settled _ _
  | rdPeek | rdSender | rdConfig => exact recomputeThenReply_settled _ _
  | wrConfig w | resetMbox => exact mboxRecompute_settled _
  | wrPush r w => exact unlessStopped_settled mboxRecompute_settled _
  | rdStatus0 | rdStatus1 | rdMboxBad off | wrMboxBad off w => exact h
  | mboxBadAccess kind size off w => cases kind <;> exact h
  | sigChannelAvailable ch l =>
    obtain ⟨guard, -⟩ := h running
    show MboxSettled (sigChannel mboxRecompute ch l s)
    unfold sigChannel
    split
    · simp only [setChannel_mbox, guard]
      exact mboxRecompute_settled _
    · intro running'
      simp [raiseFatal, running] at running'
  | _ => cases hb

/-! ## The invariant -/

theorem inv_iff (s : State) : Inv s ↔ Sound s ∧ MboxSettled s :=
  ⟨fun ⟨router, rq, wq, settled⟩ => ⟨⟨router, rq, wq⟩, settled⟩, fun ⟨h, settled⟩ => ⟨h.router, h.rq, h.wq, settled⟩⟩

theorem inv_routerKeeps : RouterKeeps Inv where
  update _ _ h := ⟨routerRecompute_fresh _, h.2⟩
  fatal _ _ h := h
  log _ _ _ _ h := h
  reply _ _ h := h

theorem mboxEffect_sound {i : Instr} (hb : eventBlock i = some .mbox) {s : State} (h : Sound s) : Sound (effect i s) :=
  sound_opKeeps.mboxKeeps.effect hb (push := fun _ _ _ _ room h => ⟨h.router, h.rq, Queue.push_ok room h.wq⟩)
    (config := fun _ _ _ h => ⟨h.router, h.rq, h.wq⟩)
    (reset := fun _ _ h => ⟨h.router, Queue.empty_ok _, Queue.empty_ok _⟩) h

/-- Every event that completes keeps the invariant. -/
theorem exec_inv {i : Instr} {s t : State} (h : Inv s) (he : exec i s = .next t) : Inv t := by
  obtain ⟨b, hb, running, rfl⟩ := exec_next he
  have h₀ : Inv { s with rdata := none } := h
  cases b with
  | router => exact inv_routerKeeps.effect hb h₀
  | mbox =>
    rw [inv_iff] at h₀ ⊢
    obtain ⟨sound, settled⟩ := h₀
    exact ⟨mboxEffect_sound hb sound, mboxEffect_settled hb (by simpa using running) settled⟩

/-- Everything a step can do: nothing, with no event waiting, or the first waiting event. -/
theorem step_next {s t : State} (h : step s = .next t) :
    (s.inbox = [] ∧ t = s) ∨ ∃ e rest, s.inbox = e :: rest ∧ exec (decode e) { s with inbox := rest } = .next t := by
  unfold step at h
  split at h
  · next none => exact .inl ⟨none, by simpa [eq_comm] using h⟩
  · next e rest waiting => exact .inr ⟨e, rest, waiting, h⟩

/-- Settles O11: a step is one event, and every event keeps the invariant. -/
theorem stepKeepsInvariant : Obligations.StepKeepsInvariant := by
  intro s t h hs
  obtain ⟨-, rfl⟩ | ⟨e, rest, -, he⟩ := step_next hs
  · exact h
  · have h₀ : Inv { s with inbox := rest } := h
    exact exec_inv h₀ he

end Sys2Proof.Machine
end

section
/-! PROOFS. What a step only adds to, and what no mailbox event changes. -/

namespace Sys2Proof.Machine

/-! ## Records only grow (R38, R39, R75) -/

/-- From `s` to `t` the log and the history only grew, answers were used from the front, and set fatal flags and the parameters stayed. -/
structure Extends (s t : State) : Prop where
  diagLog : s.diagLog <+: t.diagLog
  history : s.mboxHistory <+: t.mboxHistory
  inbox : t.inbox = s.inbox
  answers : t.envAnswers <:+ s.envAnswers
  platform : t.platform = s.platform
  routerFatal : s.routerFatal ≠ none → t.routerFatal = s.routerFatal
  mboxFatal : s.mboxFatal ≠ none → t.mboxFatal = s.mboxFatal

theorem Extends.refl (s : State) : Extends s s :=
  ⟨List.prefix_rfl, List.prefix_rfl, rfl, List.suffix_rfl, rfl, fun _ => rfl, fun _ => rfl⟩

/-- A flag that was set at `s` still has its kind after a later fatal outcome (R39). -/
theorem set_flag_or {a b : Option FatalKind} (k : FatalKind) (h : a ≠ none → b = a) (set : a ≠ none) : b.or (some k) = a := by
  rw [h set]
  cases a with
  | none => exact absurd rfl set
  | some _ => rfl

theorem extends_opKeeps (s : State) : OpKeeps (Extends s) where
  answer _ _ h := { h with
    history := h.history.trans (List.prefix_append _ _)
    answers := (List.tail_suffix _).trans h.answers }
  latch _ h := { h with }
  routerFatal k _ h := { h with routerFatal := set_flag_or k h.routerFatal }
  push _ _ _ h := { h with }
  fatal k _ h := { h with mboxFatal := set_flag_or k h.mboxFatal }
  setGuard _ _ h := { h with }
  driveIrq h := { h with }
  pull _ h := { h with }
  setChannel _ _ _ h := { h with }
  log _ _ _ _ h := { h with diagLog := h.diagLog.trans (List.prefix_append _ _) }
  reply _ _ h := { h with }

theorem extends_routerKeeps (s : State) : RouterKeeps (Extends s) where
  update _ _ h := { h with }
  fatal k _ h := { h with routerFatal := set_flag_or k h.routerFatal }
  log _ _ _ _ h := { h with diagLog := h.diagLog.trans (List.prefix_append _ _) }
  reply _ _ h := { h with }

theorem exec_extends {i : Instr} {s t : State} (he : exec i s = .next t) : Extends s t := by
  obtain ⟨b, hb, -, rfl⟩ := exec_next he
  have h₀ : Extends s { s with rdata := none } := { Extends.refl s with }
  cases b with
  | router => exact (extends_routerKeeps s).effect hb h₀
  | mbox =>
    exact (extends_opKeeps s).mboxKeeps.effect hb (push := fun _ _ _ _ _ h => { h with }) (config := fun _ _ _ h => { h with })
      (reset := fun _ _ h => { h with }) h₀

/-- Settles O12: a step is one event, and every event only extends the records. -/
theorem stepOnlyExtendsRecords : Obligations.StepOnlyExtendsRecords := by
  intro s t hs
  obtain ⟨none, rfl⟩ | ⟨e, rest, waiting, he⟩ := step_next hs
  · obtain ⟨diagLog, history, -, answers, platform, routerFatal, mboxFatal⟩ := Extends.refl t
    exact ⟨diagLog, history, by rw [none, List.tail_nil], answers, platform, routerFatal, mboxFatal⟩
  · obtain ⟨diagLog, history, inbox, answers, platform, routerFatal, mboxFatal⟩ := exec_extends he
    exact ⟨diagLog, history, by rw [inbox, waiting, List.tail_cons], answers, platform, routerFatal, mboxFatal⟩

/-! ## The frame of the mailbox events (R30, R32) -/

/-- From `s` to `t` the router's registers stayed, `wq` too if `keepsWq`, and the enable if `keepsConfig`. -/
structure RegisterFrame (keepsWq keepsConfig : Prop) (s t : State) : Prop where
  router : SameRegisters s.router t.router
  wq : keepsWq → t.mbox.wq = s.mbox.wq
  config : keepsConfig → t.mbox.configIrqEn = s.mbox.configIrqEn

theorem SameRegisters.trans {r q p : Router} (h : SameRegisters r q) (h' : SameRegisters q p) : SameRegisters r p := by
  obtain ⟨localCtrl, mailboxCtrl, words, irqRoute, fiqRoute⟩ := h'
  rw [SameRegisters, localCtrl, mailboxCtrl, words, irqRoute, fiqRoute]
  exact h

theorem routerRecompute_sameRegisters (r : Router) : SameRegisters r (routerRecompute r) :=
  ⟨routerRecompute_localRouteCtrl r, routerRecompute_mailboxRouteCtrl r, routerRecompute_mboxWord r,
    routerRecompute_gpuIrqRoute r, routerRecompute_gpuFiqRoute r⟩

theorem registerFrame_opKeeps (keepsWq keepsConfig : Prop) (s : State) : OpKeeps (RegisterFrame keepsWq keepsConfig s) where
  answer _ _ h := { h with }
  latch same h := { h with router := (h.router.trans (same _)).trans (routerRecompute_sameRegisters _) }
  routerFatal _ _ h := { h with }
  push _ _ _ h := { h with }
  fatal _ _ h := { h with }
  setGuard _ _ h := { h with }
  driveIrq h := { h with }
  pull _ h := { h with }
  setChannel _ _ _ h := { h with }
  log _ _ _ _ h := { h with }
  reply _ _ h := { h with }

theorem mboxEffect_registerFrame {i : Instr} (hb : eventBlock i = some .mbox) (s : State) :
    RegisterFrame ((∀ r w, i ≠ .wrPush r w) ∧ i ≠ .resetMbox) ((∀ w, i ≠ .wrConfig w) ∧ i ≠ .resetMbox) s (effect i s) :=
  (registerFrame_opKeeps _ _ s).mboxKeeps.effect hb
    (push := fun r w pushes _ _ h => { h with wq := fun ⟨noPush, _⟩ => absurd pushes (noPush r w) })
    (config := fun w writes _ h => { h with config := fun ⟨noWrite, _⟩ => absurd writes (noWrite w) })
    (reset := fun resets _ h => { h with
      wq := fun ⟨_, noReset⟩ => absurd resets noReset
      config := fun ⟨_, noReset⟩ => absurd resets noReset })
    ⟨⟨rfl, rfl, rfl, rfl, rfl⟩, fun _ => rfl, fun _ => rfl⟩

/-! ## Without an access the router stays (R60, R71) -/

/-- From `s` to `t` the history only grew, and if it did not, the router and its fatal flag stayed. -/
structure RouterNeedsAccess (s t : State) : Prop where
  history : s.mboxHistory <+: t.mboxHistory
  router : t.mboxHistory = s.mboxHistory → t.router = s.router ∧ t.routerFatal = s.routerFatal

/-- An access makes the history longer, whatever is delivered in it. -/
theorem routerNeedsAccess_memAccess {s t : State} {deliver : Signal → State → State} {req : MboxRequest}
    (hd : ∀ u sig {v}, Extends u v → Extends u (deliver sig v)) (h : RouterNeedsAccess s t) :
    RouterNeedsAccess s (memAccess deliver req t) := by
  have grown : t.mboxHistory ++ [recordOf (nextAnswer req t).value req] <+: (memAccess deliver req t).mboxHistory :=
    (memAccess_induct (fun sig _ => hd _ sig) req (Extends.refl (useAnswer req t))).history
  refine ⟨h.history.trans ((List.prefix_append _ _).trans grown), fun same => ?_⟩
  have longer := grown.length_le
  have before := h.history.length_le
  rw [same, List.length_append, List.length_singleton] at longer
  omega

theorem routerNeedsAccess_mboxKeeps (s : State) : MboxKeeps (RouterNeedsAccess s) where
  drainAccess _ _ h := routerNeedsAccess_memAccess (fun u sig _ => (extends_opKeeps u).deliverSignal id sig) h
  push _ _ _ h := { h with }
  fatal _ _ h := { h with }
  setGuard _ _ h := { h with }
  driveIrq h := { h with }
  pushAccess _ _ h := routerNeedsAccess_memAccess (fun u sig _ => (extends_opKeeps u).deliverInPush sig) h
  pull _ h := { h with }
  setChannel _ _ _ h := { h with }
  log _ _ _ _ h := { h with }
  reply _ _ h := { h with }

theorem mboxEffect_routerNeedsAccess {i : Instr} (hb : eventBlock i = some .mbox) (s : State) :
    RouterNeedsAccess s (effect i s) :=
  (routerNeedsAccess_mboxKeeps s).effect hb (push := fun _ _ _ _ _ h => { h with }) (config := fun _ _ _ h => { h with })
    (reset := fun _ _ h => { h with }) ⟨List.prefix_rfl, fun _ => ⟨rfl, rfl⟩⟩

/-- Settles O51: registers by what each operation keeps, the router's latches by the history's growth at each access. -/
theorem mboxEventsFrame : Obligations.MboxEventsFrame := by
  intro i s t hb he
  rw [exec_eq hb, onEvent_next] at he
  obtain ⟨-, rfl⟩ := he
  obtain ⟨⟨localCtrl, mailboxCtrl, words, irqRoute, fiqRoute⟩, wq, config⟩ := mboxEffect_registerFrame hb { s with rdata := none }
  exact ⟨localCtrl, mailboxCtrl, words, irqRoute, fiqRoute, fun noPush noReset => wq ⟨noPush, noReset⟩,
    fun noWrite noReset => config ⟨noWrite, noReset⟩, (mboxEffect_routerNeedsAccess hb _).router⟩

end Sys2Proof.Machine
end

section
/-! PROOFS. Save and restore (R57): what comes back from a sound image, and what a corrupt one stops. -/

namespace Sys2Proof.Machine

/-! ## One block -/

section
variable {b : Block} {s : State} (load : State → State)

theorem restoreBlock_of_stopped (valid : Bool) (h : stopped b s = true) : restoreBlock b valid load s = s := by
  simp [restoreBlock, unlessStopped, h]

theorem restoreBlock_of_valid (h : stopped b s = false) : restoreBlock b true load s = load s := by
  simp [restoreBlock, unlessStopped, h]

theorem restoreBlock_of_corrupt (h : stopped b s = false) : restoreBlock b false load s = raiseFatal b .stateInvariant s := by
  simp [restoreBlock, unlessStopped, h]

end

/-! ## Both blocks -/

/-- Restoring both blocks, the router first: a block gets the given state if its image was found valid. -/
def restoreBlocks (routerOk : Bool) (r : Router) (mboxOk : Bool) (m : Mbox) (s : State) : State :=
  restoreBlock .mbox mboxOk (fun s => { s with mbox := m }) (restoreBlock .router routerOk (fun s => { s with router := r }) s)

section
variable (routerOk mboxOk : Bool) (r : Router) (m : Mbox) (s : State)

theorem restoreBlock_router_frame :
    let t := restoreBlock .router routerOk (fun s => { s with router := r }) s
    t = { s with router := t.router, routerFatal := t.routerFatal } := by
  obtain ⟨-, he⟩ | ⟨-, -, he⟩ | ⟨-, -, he⟩ := restoreBlock_cases .router routerOk (fun s => { s with router := r }) s
  · rw [he]
  · rw [he]
  · rw [he]
    rfl

theorem restoreBlock_mbox_frame :
    let t := restoreBlock .mbox mboxOk (fun s => { s with mbox := m }) s
    t = { s with mbox := t.mbox, mboxFatal := t.mboxFatal } := by
  obtain ⟨-, he⟩ | ⟨-, -, he⟩ | ⟨-, -, he⟩ := restoreBlock_cases .mbox mboxOk (fun s => { s with mbox := m }) s
  · rw [he]
  · rw [he]
  · rw [he]
    rfl

theorem restoreBlocks_of_valid (running : s.routerFatal = none) (mboxRunning : s.mboxFatal = none) :
    restoreBlocks true r true m s = { s with router := r, mbox := m } := by
  rw [restoreBlocks, restoreBlock_of_valid _ (s := s) (by simp [running]), restoreBlock_of_valid _ (by simp [mboxRunning])]

/-- What a restore does to the router: a corrupt image stops it, a stopped one stays, and both leave its items. -/
theorem restoreBlocks_router :
    let t := restoreBlocks routerOk r mboxOk m s
    (s.routerFatal = none → routerOk = false → t.routerFatal = some .stateInvariant ∧ t.router = s.router) ∧
      (s.routerFatal ≠ none → t.routerFatal = s.routerFatal ∧ t.router = s.router) := by
  rw [restoreBlocks, restoreBlock_mbox_frame]
  refine ⟨?_, fun stops => ?_⟩
  · rintro running rfl
    rw [restoreBlock_of_corrupt (b := .router) _ (by simp [running])]
    simp [raiseFatal, running]
  · rw [restoreBlock_of_stopped (b := .router)]
    · exact ⟨rfl, rfl⟩
    · exact Option.isSome_iff_ne_none.mpr stops

/-- What a restore does to the mailbox block: the same. -/
theorem restoreBlocks_mbox :
    let t := restoreBlocks routerOk r mboxOk m s
    (s.mboxFatal = none → mboxOk = false → t.mboxFatal = some .stateInvariant ∧ t.mbox = s.mbox) ∧
      (s.mboxFatal ≠ none → t.mboxFatal = s.mboxFatal ∧ t.mbox = s.mbox) := by
  rw [restoreBlocks, restoreBlock_router_frame]
  refine ⟨?_, fun stops => ?_⟩
  · rintro running rfl
    rw [restoreBlock_of_corrupt (b := .mbox) _ (by simp [running])]
    simp [raiseFatal, running]
  · rw [restoreBlock_of_stopped (b := .mbox)]
    · exact ⟨rfl, rfl⟩
    · exact Option.isSome_iff_ne_none.mpr stops

end

theorem restoreSnapshot_eq (g : Snapshot) (s : State) :
    restoreSnapshot g s = restoreBlocks g.router.valid (loadRouter g.router) (mboxValid s.platform.sentinel g.mbox) g.mbox s := by
  unfold restoreSnapshot restoreMbox restoreRouter restoreBlocks
  rw [restoreBlock_router_frame]

theorem restoreRecomputed_eq (g : Snapshot) (s : State) :
    restoreRecomputed g s = restoreBlocks g.router.routesValid (routerRecompute (loadRouter g.router))
      (mboxValid s.platform.sentinel g.mbox) { g.mbox with mboxIrqOut := g.mbox.irqLevel } s := by
  unfold restoreRecomputed restoreMboxRecomputed restoreRouterRecomputed restoreBlocks
  rw [restoreBlock_router_frame]
  rfl

/-! ## A sound image -/

section
variable {g : Snapshot} {s : State} (running : s.routerFatal = none) (mboxRunning : s.mboxFatal = none)
include running mboxRunning

theorem restoreSnapshot_of_valid (router : g.router.valid = true) (mbox : mboxValid s.platform.sentinel g.mbox = true) :
    restoreSnapshot g s = { s with router := loadRouter g.router, mbox := g.mbox } := by
  rw [restoreSnapshot_eq, router, mbox, restoreBlocks_of_valid _ _ _ running mboxRunning]

theorem restoreRecomputed_of_valid (router : g.router.routesValid = true) (mbox : mboxValid s.platform.sentinel g.mbox = true) :
    restoreRecomputed g s = { s with
      router := routerRecompute (loadRouter g.router), mbox := { g.mbox with mboxIrqOut := g.mbox.irqLevel } } := by
  rw [restoreRecomputed_eq, router, mbox, restoreBlocks_of_valid _ _ _ running mboxRunning]

end

theorem saveRouter_routesValid (r : Router) : (saveRouter r).routesValid = true :=
  (RouterImage.routesValid_iff _).mpr ⟨r.gpuIrqRoute.isLt, r.gpuFiqRoute.isLt⟩

theorem saveRouter_valid {r : Router} (fresh : r.Fresh) : (saveRouter r).valid = true := by
  rw [RouterImage.valid, saveRouter_routesValid, loadRouter_saveRouter, fresh, Bool.true_and, beq_self_eq_true]

/-- An image whose outputs were replaced still holds the router's inputs. -/
theorem loadRouter_sameInputs (r : Router) (irq fiq : Vector Snap 4) (irqLines fiqLines : Vector Bool 4) :
    SameInputs r (loadRouter { saveRouter r with irqSource := irq, fiqSource := fiq, irqOut := irqLines, fiqOut := fiqLines }) := by
  simp [SameInputs, loadRouter, saveRouter]

/-- Settles O56: the image's router inputs are those saved, so recomputing gives the saved outputs, which were not stale. -/
theorem snapshotRestoresBlocks : Obligations.SnapshotRestoresBlocks := by
  intro s u ⟨fresh, rq, wq, settled⟩ running routerRunning mboxRunning platform
  have valid : ∀ m : Mbox, m.rq = s.mbox.rq → m.wq = s.mbox.wq → mboxValid u.platform.sentinel m = true := by
    intro m hr hw
    rw [platform, mboxValid_iff, hr, hw]
    exact ⟨rq, wq⟩
  have restored : restoreSnapshot (saveSnapshot s) u = { u with router := s.router, mbox := s.mbox } := by
    rw [restoreSnapshot_of_valid routerRunning mboxRunning (saveRouter_valid fresh) (valid _ rfl rfl), saveSnapshot, loadRouter_saveRouter]
  refine ⟨restored, fun irq fiq irqLines fiqLines mboxLine => ?_⟩
  have recomputed := restoreRecomputed_of_valid routerRunning mboxRunning
    (g := ⟨{ saveRouter s.router with irqSource := irq, fiqSource := fiq, irqOut := irqLines, fiqOut := fiqLines },
      { s.mbox with mboxIrqOut := mboxLine }⟩) (saveRouter_routesValid s.router) (valid _ rfl rfl)
  have router := (routerRecompute_congr (loadRouter_sameInputs s.router irq fiq irqLines fiqLines)).trans fresh
  obtain ⟨-, line⟩ := settled running
  have mbox : { s.mbox with mboxIrqOut := s.mbox.irqLevel } = s.mbox := by rw [← line]
  rw [recomputed, restored, router]
  exact congrArg (fun m => { u with router := s.router, mbox := m }) mbox

/-! ## A corrupt image -/

theorem RouterImage.routesValid_eq_false {g : RouterImage} (h : 3 < g.gpuIrqRoute ∨ 3 < g.gpuFiqRoute) : g.routesValid = false := by
  rw [← Bool.not_eq_true, RouterImage.routesValid_iff]
  omega

theorem RouterImage.valid_eq_false {g : RouterImage} (h : g.routesValid = false ∨ ¬ (loadRouter g).Fresh) : g.valid = false := by
  rw [← Bool.not_eq_true, RouterImage.valid_iff, ← RouterImage.routesValid_iff]
  rintro ⟨routes, fresh⟩
  rcases h with corrupt | stale
  · rw [corrupt] at routes
    cases routes
  · exact stale fresh

theorem mboxValid_eq_false {sentinel : Word} {m : Mbox} (h : ¬ m.rq.Ok sentinel ∨ ¬ m.wq.Ok sentinel) : mboxValid sentinel m = false := by
  rw [← Bool.not_eq_true, mboxValid_iff, not_and_or]
  exact h

/-- Settles O57: either way of restoring judges the routes and the queues, and the one that loads the outputs judges them too. -/
theorem corruptSnapshotIsFatal : Obligations.CorruptSnapshotIsFatal := by
  intro g s t way
  have blocks : ∃ routerOk r m, t = restoreBlocks routerOk r (mboxValid s.platform.sentinel g.mbox) m s ∧
      (g.router.routesValid = false → routerOk = false) := by
    rcases way with rfl | rfl
    · exact ⟨_, _, _, restoreSnapshot_eq g s, fun routes => RouterImage.valid_eq_false (.inl routes)⟩
    · exact ⟨_, _, _, restoreRecomputed_eq g s, id⟩
  obtain ⟨routerOk, r, m, restored, routes⟩ := blocks
  obtain ⟨routerStops, routerStays⟩ := restoreBlocks_router routerOk (mboxValid s.platform.sentinel g.mbox) r m s
  obtain ⟨mboxStops, mboxStays⟩ := restoreBlocks_mbox routerOk (mboxValid s.platform.sentinel g.mbox) r m s
  rw [← restored] at routerStops routerStays mboxStops mboxStays
  refine ⟨fun running corrupt => ?_, fun running corrupt => mboxStops running (mboxValid_eq_false corrupt), routerStays, mboxStays⟩
  rcases corrupt with irq | fiq | ⟨loaded, stale⟩
  · exact routerStops running (routes (RouterImage.routesValid_eq_false (.inl irq)))
  · exact routerStops running (routes (RouterImage.routesValid_eq_false (.inr fiq)))
  · rw [loaded, restoreSnapshot_eq]
    exact (restoreBlocks_router ..).1 running (RouterImage.valid_eq_false (.inr stale))

end Sys2Proof.Machine
end

section
/-! PROOFS. The bus side (R61 to R66, R91, R95), the step, and what no router event changes (R60). -/

namespace Sys2Proof.Machine

/-! ## No router event reaches the mailbox block (R60, R128) -/

/-- From `s` to `t` the mailbox block, its fatal flag, the environment's data, the parameters and the inbox stayed. -/
structure MboxFrame (s t : State) : Prop where
  mbox : t.mbox = s.mbox
  mboxFatal : t.mboxFatal = s.mboxFatal
  history : t.mboxHistory = s.mboxHistory
  answers : t.envAnswers = s.envAnswers
  platform : t.platform = s.platform
  inbox : t.inbox = s.inbox

theorem mboxFrame_routerKeeps (s : State) : RouterKeeps (MboxFrame s) where
  update _ _ h := { h with }
  fatal _ _ h := { h with }
  log _ _ _ _ h := { h with }
  reply _ _ h := { h with }

theorem eventBlock_of_isRouterEvent {i : Instr} (h : isRouterEvent i = true) : eventBlock i = some .router := by
  unfold eventBlock
  split
  · cases h
  · exact if_pos h

/-- Settles O28: each operation of a router event keeps the mailbox block's part of the state. -/
theorem routerEventsLeaveMboxAlone : Obligations.RouterEventsLeaveMboxAlone := by
  intro i s t hi he
  have hb := eventBlock_of_isRouterEvent hi
  rw [exec_eq hb, onEvent_next] at he
  obtain ⟨-, rfl⟩ := he
  have h₀ : MboxFrame s { s with rdata := none } := ⟨rfl, rfl, rfl, rfl, rfl, rfl⟩
  obtain ⟨mbox, mboxFatal, history, answers, platform, inbox⟩ := (mboxFrame_routerKeeps s).effect hb h₀
  exact ⟨mbox, mboxFatal, history, answers, platform, inbox, congrArg Mbox.mboxIrqOut mbox⟩

/-! ## The fields of a bus key (R91) -/

section
variable (kind : BusKind) (blk : Block) (size : AccessSize) (off : Offset)

theorem kindCode_lt : kindCode kind < 2 := by cases kind <;> decide
theorem blockCode_lt : blockCode blk < 2 := by cases blk <;> decide
theorem sizeCode_lt : sizeCode size < 4 := by cases size <;> decide

/-- The fields of a bus key do not overlap, so their sum does not wrap. -/
theorem busKey_toNat :
    (busKey kind blk size off).toNat = kindCode kind * 0x4000 + blockCode blk * 0x2000 + sizeCode size * 0x800 + off.toNat := by
  have := kindCode_lt kind
  have := blockCode_lt blk
  have := sizeCode_lt size
  have := off.isLt
  rw [busKey, BitVec.toNat_ofNat]
  omega

/-- A field of a bus key, from its place in the key's number. -/
theorem busKey_field {start len : Nat} {v : BitVec len}
    (h : kindCode kind < 2 → blockCode blk < 2 → sizeCode size < 4 → off.toNat < 256 →
      (kindCode kind * 0x4000 + blockCode blk * 0x2000 + sizeCode size * 0x800 + off.toNat) / 2 ^ start % 2 ^ len = v.toNat) :
    (busKey kind blk size off).extractLsb' start len = v :=
  BitVec.eq_of_toNat_eq <| by
    rw [BitVec.extractLsb'_toNat, busKey_toNat, Nat.shiftRight_eq_div_pow,
      h (kindCode_lt kind) (blockCode_lt blk) (sizeCode_lt size) off.isLt]

theorem busKey_kind : (busKey kind blk size off).extractLsb' 14 2 = BitVec.ofNat 2 (kindCode kind) :=
  busKey_field kind blk size off (by intros; rw [BitVec.toNat_ofNat]; omega)

theorem busKey_size : (busKey kind blk size off).extractLsb' 11 2 = BitVec.ofNat 2 (sizeCode size) :=
  busKey_field kind blk size off (by intros; rw [BitVec.toNat_ofNat]; omega)

/-- Bits 10 to 8 of a bus key are 0 (R91). -/
theorem busKey_reserved : (busKey kind blk size off).extractLsb' 8 3 = 0#3 :=
  busKey_field kind blk size off (by intros; rw [BitVec.toNat_ofNat]; omega)

theorem keyOffset_busKey : keyOffset (busKey kind blk size off) = off :=
  busKey_field kind blk size off (by intros; omega)

theorem keySize_busKey : keySize (busKey kind blk size off) = size := by
  rw [keySize, busKey_size]
  cases size <;> rfl

theorem keyBlock_busKey : keyBlock (busKey kind blk size off) = blk := by
  have := sizeCode_lt size
  have := off.isLt
  have bit : (busKey kind blk size off).getLsbD 13 = decide (blockCode blk = 1) := by
    have := blockCode_lt blk
    rw [← BitVec.testBit_toNat, busKey_toNat, Nat.testBit_eq_decide_div_mod_eq]
    exact decide_eq_decide.mpr (by omega)
  rw [keyBlock, bit]
  cases blk <;> rfl

/-- A bus key of any size, offset, block and kind reaches the width and alignment check with its own fields (R91, R95). -/
theorem decode_busKey (w : Word) : decode ⟨busKey kind blk size off, w⟩ = decodeBus kind blk size off w := by
  have bus : decodeBusKey kind (busKey kind blk size off) w = decodeBus kind blk size off w := by
    rw [decodeBusKey, busKey_reserved, keyBlock_busKey, keySize_busKey, keyOffset_busKey]
    rfl
  rw [← bus, decode, busKey_kind]
  cases kind <;> rfl

end

/-! ## The width and alignment check (R64, R95) -/

theorem passesStep1_iff (size : AccessSize) (off : Offset) : passesStep1 size off = true ↔ size = .four ∧ off.toNat % 4 = 0 := by
  rw [passesStep1, Bool.and_eq_true, beq_iff_eq, beq_iff_eq, ← BitVec.toNat_inj, BitVec.extractLsb'_toNat]
  simp

/-- Settles O59: the key keeps size and offset, so the check sees that the access is not admitted. -/
theorem rejectedAccessIsDecodedFirst : Obligations.RejectedAccessIsDecodedFirst := by
  intro kind size off w inWindow rejected
  have fails : passesStep1 size (BitVec.ofNat 8 off) = false := by
    rw [← Bool.not_eq_true, passesStep1_iff, BitVec.toNat_ofNat, Nat.mod_eq_of_lt inWindow]
    rintro ⟨four, isAligned⟩
    exact rejected.elim (· four) (· isAligned)
  simp only [accessEvent, decode_busKey, decodeBus, fails]
  cases kind <;> exact ⟨rfl, rfl⟩

/-! ## The step -/

/-- Settles O7: by the two cases of the inbox. -/
theorem stepRunsDecodedEvent : Obligations.StepRunsDecodedEvent := by
  refine ⟨fun s e rest waiting => ?_, fun s empty => ?_⟩
  · rw [step, waiting]
  · rw [step, empty]

/-! ## The windows (R61, R62) -/

theorem routerOffset_eq_some (p : Platform) (a off : Nat) :
    routerOffset p a = some off ↔ off < 0x100 ∧ a = p.routerBase + off := by
  simp only [routerOffset, Option.ite_none_right_eq_some, Option.some.injEq, Config.routerWindow]
  omega

theorem mboxRawOffset_eq_some (p : Platform) (a raw : Nat) :
    mboxRawOffset p a = some raw ↔ raw < 0x100 * p.mboxWindowPages ∧ a = p.mboxBase + raw := by
  simp only [mboxRawOffset, Option.ite_none_right_eq_some, Option.some.injEq]
  rw [Platform.mboxWindowSize]
  omega

/-- An address reaches offset `off` exactly from the place `off` of some page of the window (R62). -/
theorem mboxOffset_eq_some (p : Platform) (a off : Nat) :
    mboxOffset p a = some off ↔ ∃ k, k < p.mboxWindowPages ∧ off < 0x100 ∧ a = p.mboxBase + 0x100 * k + off := by
  simp only [mboxOffset, Option.map_eq_some_iff, mboxRawOffset_eq_some]
  constructor
  · rintro ⟨raw, ⟨inWindow, rfl⟩, rfl⟩
    exact ⟨raw / 0x100, by omega, by omega, by omega⟩
  · rintro ⟨k, page, inPage, rfl⟩
    exact ⟨0x100 * k + off, by omega, by omega⟩

/-- Settles O58: 4 divides 0x100, so masking keeps the remainder by 4. -/
theorem windowsDecodeAddresses : Obligations.WindowsDecodeAddresses := by
  intro p a off
  refine ⟨routerOffset_eq_some p a off, mboxOffset_eq_some p a off, fun raw _ => ?_⟩
  rw [BitVec.toNat_ofNat]
  omega

/-! ## The bytes of a word (R66) -/

theorem wordByte_toNat (k : Nat) (v : Word) : (wordByte k v).toNat = v.toNat / 256 ^ k % 256 := by
  rw [wordByte, BitVec.extractLsb'_toNat, Nat.shiftRight_eq_div_pow, Nat.pow_mul]

/-- The word at `addr` puts its byte `k` at `addr + k`. -/
theorem wordCells_getElem? (addr : Nat) (v : Word) {k : Nat} (hk : k < 4) :
    (wordCells addr v)[k]? = some (addr + k, wordByte k v) := by
  match k, hk with
  | 0, _ | 1, _ | 2, _ | 3, _ => rfl

/-- Settles O60: the byte at `addr + k` is `wordByte k`. -/
theorem mboxDataIsLittleEndian : Obligations.MboxDataIsLittleEndian :=
  fun addr v k hk => ⟨wordByte k v, wordCells_getElem? addr v hk, wordByte_toNat k v⟩

end Sys2Proof.Machine
end

section
/-! PROOFS. Event keys (R91 to R94): their kinds, the reserved ones, and the fields of a signal key. -/

namespace Sys2Proof.Machine

/-! ## The kind of a key (R91 to R93) -/

theorem decode_bus (kind : BusKind) {k : Key} (w : Word) (h : k.extractLsb' 14 2 = BitVec.ofNat 2 (kindCode kind)) :
    decode ⟨k, w⟩ = decodeBusKey kind k w := by
  rw [decode, h]
  cases kind <;> rfl

theorem decode_signal {k : Key} (w : Word) (h : k.extractLsb' 14 2 = 0b10#2) : decode ⟨k, w⟩ = decodeSignalKey k := by
  rw [decode, h]
  rfl

theorem decode_reset {k : Key} (w : Word) (h : k.extractLsb' 14 2 = 0b11#2) : decode ⟨k, w⟩ = decodeResetKey k := by
  rw [decode, h]
  rfl

/-- Every key is a bus key of some direction, a signal key or a reset key. -/
theorem key_kind (k : Key) :
    (∃ kind, k.extractLsb' 14 2 = BitVec.ofNat 2 (kindCode kind)) ∨ k.extractLsb' 14 2 = 0b10#2 ∨ k.extractLsb' 14 2 = 0b11#2 := by
  have four : ∀ tag : BitVec 2, tag = 0b00#2 ∨ tag = 0b01#2 ∨ tag = 0b10#2 ∨ tag = 0b11#2 := by decide
  obtain h | h | h | h := four (k.extractLsb' 14 2)
  · exact .inl ⟨.read, h⟩
  · exact .inl ⟨.write, h⟩
  · exact .inr (.inl h)
  · exact .inr (.inr h)

/-- A field of a key or an offset, as a number. -/
theorem field_eq_iff {n : Nat} (v : BitVec n) (start len : Nat) (x : BitVec len) :
    v.extractLsb' start len = x ↔ v.toNat / 2 ^ start % 2 ^ len = x.toNat := by
  rw [← BitVec.toNat_inj, BitVec.extractLsb'_toNat, Nat.shiftRight_eq_div_pow]

/-! ## Reserved keys (R94) -/

theorem isReservedKey_bus (kind : BusKind) {k : Key} (h : k.extractLsb' 14 2 = BitVec.ofNat 2 (kindCode kind)) :
    isReservedKey k = true ↔ k.extractLsb' 8 3 ≠ 0#3 := by
  rw [isReservedKey, h]
  cases kind <;> exact bne_iff_ne

theorem isReservedKey_reset {k : Key} (h : k.extractLsb' 14 2 = 0b11#2) : isReservedKey k = true ↔ k ≠ 0xC000#16 ∧ k ≠ 0xE000#16 := by
  have lowBits : isReservedKey k = true ↔ k.extractLsb' 0 13 ≠ 0#13 := by
    rw [isReservedKey, h]
    exact bne_iff_ne
  rw [lowBits, ne_eq, field_eq_iff]
  rw [field_eq_iff] at h
  simp only [← BitVec.toNat_inj, BitVec.toNat_ofNat, ne_eq] at h ⊢
  have := k.isLt
  omega

theorem isReservedKey_signal {k : Key} (h : k.extractLsb' 14 2 = 0b10#2) :
    isReservedKey k = true ↔ k.extractLsb' 1 3 ≠ 0#3 ∨ 4 ≤ (k.extractLsb' 10 4).toNat ∨
      ((k.extractLsb' 10 4 = 1#4 ∨ k.extractLsb' 10 4 = 2#4) ∧ k.extractLsb' 4 6 ≠ 0#6) ∨
      (k.extractLsb' 10 4 = 3#4 ∧ k.extractLsb' 4 2 ≠ 0#2) := by
  rw [isReservedKey, h]
  simp [or_assoc]

/-- No signal class takes a key that R94 reserves. -/
theorem decodeSignalKey_of_reserved {k : Key} (h : k.extractLsb' 14 2 = 0b10#2) (reserved : isReservedKey k = true) :
    decodeSignalKey k = .reservedKey k := by
  rw [isReservedKey_signal h] at reserved
  simp only [decodeSignalKey, beq_iff_eq, bne_iff_ne, field_eq_iff, BitVec.toNat_ofNat, BitVec.extractLsb'_toNat, ne_eq,
    Nat.shiftRight_eq_div_pow] at reserved ⊢
  split_ifs with zero localLine idx2 channel idx1 gpuIrq gpuFiq
  · omega
  · omega
  · omega
  · omega
  all_goals rfl

/-- A key that R94 reserves decodes to its own name, whatever the data beside it. -/
theorem decode_of_reserved {k : Key} (w : Word) (reserved : isReservedKey k = true) : decode ⟨k, w⟩ = .reservedKey k := by
  obtain ⟨kind, h⟩ | h | h := key_kind k
  · rw [isReservedKey_bus kind h] at reserved
    rw [decode_bus kind w h, decodeBusKey, if_neg (by simpa using reserved)]
  · rw [decode_signal w h, decodeSignalKey_of_reserved h reserved]
  · rw [isReservedKey_reset h] at reserved
    simp [decode_reset w h, decodeResetKey, reserved]

/-! ## The key that spells an instruction -/

/-- The instruction is well-formed and its event has the key `k`. -/
def Spells (k : Key) (i : Instr) : Prop := i.wf = true ∧ (encode i).key = k

/-! ## Signal keys (R92) -/

/-- A signal key is its fields put together. -/
theorem signalKey_fields {k : Key} (h : k.extractLsb' 14 2 = 0b10#2) (zero : k.extractLsb' 1 3 = 0#3) :
    signalKey (k.extractLsb' 10 4).toNat (k.extractLsb' 6 4).toNat (k.extractLsb' 4 2).toNat (k.getLsbD 0) = k := by
  have level : bitNat (k.getLsbD 0) = k.toNat % 2 := by
    rw [bitNat, ← BitVec.testBit_toNat, Nat.testBit_zero]
    split <;> simp_all
  rw [field_eq_iff] at h zero
  rw [← BitVec.toNat_inj, signalKey, level]
  simp only [BitVec.toNat_ofNat, BitVec.extractLsb'_toNat, Nat.shiftRight_eq_div_pow] at h zero ⊢
  have := k.isLt
  omega

/-- The signal keys that R94 does not reserve, class by class. -/
theorem signalKey_cases {k : Key} (h : k.extractLsb' 14 2 = 0b10#2) :
    isReservedKey k = true ∨ k.extractLsb' 1 3 = 0#3 ∧ (k.extractLsb' 10 4 = 0#4 ∨
      ((k.extractLsb' 10 4 = 1#4 ∨ k.extractLsb' 10 4 = 2#4) ∧ k.extractLsb' 6 4 = 0#4 ∧ k.extractLsb' 4 2 = 0#2) ∨
      (k.extractLsb' 10 4 = 3#4 ∧ k.extractLsb' 4 2 = 0#2)) := by
  rw [isReservedKey_signal h]
  simp only [field_eq_iff, BitVec.toNat_ofNat, BitVec.extractLsb'_toNat, Nat.shiftRight_eq_div_pow, ne_eq]
  omega

theorem decodeSignalKey_spelled {k : Key} (h : k.extractLsb' 14 2 = 0b10#2) : Spells k (decodeSignalKey k) := by
  obtain reserved | ⟨zero, used⟩ := signalKey_cases h
  · rw [decodeSignalKey_of_reserved h reserved]
    exact ⟨reserved, rfl⟩
  · have key := signalKey_fields h zero
    obtain cls | ⟨cls | cls, idx1, idx2⟩ | ⟨cls, idx2⟩ := used
    · rw [cls] at key
      rw [decodeSignalKey, zero, cls]
      exact ⟨rfl, key⟩
    · rw [cls, idx1, idx2] at key
      rw [decodeSignalKey, zero, cls, idx1, idx2]
      exact ⟨rfl, key⟩
    · rw [cls, idx1, idx2] at key
      rw [decodeSignalKey, zero, cls, idx1, idx2]
      exact ⟨rfl, key⟩
    · rw [cls, idx2] at key
      rw [decodeSignalKey, zero, cls, idx2]
      exact ⟨rfl, key⟩

section
variable (cls idx1 : BitVec 4) (idx2 : BitVec 2) (l : Bool)

/-- The fields of a signal key do not overlap, so their sum does not wrap. -/
theorem signalKey_toNat : (signalKey cls.toNat idx1.toNat idx2.toNat l).toNat =
    0x8000 + cls.toNat * 0x400 + idx1.toNat * 0x40 + idx2.toNat * 0x10 + bitNat l := by
  have level : bitNat l < 2 := by cases l <;> decide
  rw [signalKey, BitVec.toNat_ofNat]
  omega

/-- A field of a signal key, from its place in the key's number. -/
theorem signalKey_field {start len : Nat} {v : BitVec len}
    (h : bitNat l < 2 →
      (0x8000 + cls.toNat * 0x400 + idx1.toNat * 0x40 + idx2.toNat * 0x10 + bitNat l) / 2 ^ start % 2 ^ len = v.toNat) :
    (signalKey cls.toNat idx1.toNat idx2.toNat l).extractLsb' start len = v := by
  rw [field_eq_iff, signalKey_toNat]
  exact h (by cases l <;> decide)

theorem signalKey_kind : (signalKey cls.toNat idx1.toNat idx2.toNat l).extractLsb' 14 2 = 0b10#2 :=
  signalKey_field cls idx1 idx2 l (by intros; rw [BitVec.toNat_ofNat]; omega)

theorem signalKey_class : (signalKey cls.toNat idx1.toNat idx2.toNat l).extractLsb' 10 4 = cls :=
  signalKey_field cls idx1 idx2 l (by intros; omega)

theorem signalKey_idx1 : (signalKey cls.toNat idx1.toNat idx2.toNat l).extractLsb' 6 4 = idx1 :=
  signalKey_field cls idx1 idx2 l (by intros; omega)

theorem signalKey_idx2 : (signalKey cls.toNat idx1.toNat idx2.toNat l).extractLsb' 4 2 = idx2 :=
  signalKey_field cls idx1 idx2 l (by intros; omega)

/-- Bits 3 to 1 of a signal key are 0 (R92). -/
theorem signalKey_reserved : (signalKey cls.toNat idx1.toNat idx2.toNat l).extractLsb' 1 3 = 0#3 :=
  signalKey_field cls idx1 idx2 l (by intros; rw [BitVec.toNat_ofNat]; omega)

theorem signalKey_level : (signalKey cls.toNat idx1.toNat idx2.toNat l).getLsbD 0 = l := by
  rw [← BitVec.testBit_toNat, signalKey_toNat, Nat.testBit_zero]
  cases l <;> simp [bitNat] <;> omega

/-- A signal key reaches its class with its own fields (R92). -/
theorem decode_signalKey {k : Key} (hk : k = signalKey cls.toNat idx1.toNat idx2.toNat l) (w : Word) :
    decode ⟨k, w⟩ =
      if cls == 0b0000#4 then .sigLocalIrq idx1.toFin idx2.toFin l
      else if idx2 != 0#2 then .reservedKey k
      else if cls == 0b0011#4 then .sigChannelAvailable idx1.toFin l
      else if idx1 != 0#4 then .reservedKey k
      else if cls == 0b0001#4 then .sigGpuIrq l
      else if cls == 0b0010#4 then .sigGpuFiq l
      else .reservedKey k := by
  subst hk
  have core : keyIdx1 (signalKey cls.toNat idx1.toNat idx2.toNat l) = idx1.toFin :=
    Fin.ext (congrArg BitVec.toNat (signalKey_idx1 cls idx1 idx2 l))
  have source : keyIdx2 (signalKey cls.toNat idx1.toNat idx2.toNat l) = idx2.toFin :=
    Fin.ext (congrArg BitVec.toNat (signalKey_idx2 cls idx1 idx2 l))
  rw [decode_signal w (signalKey_kind cls idx1 idx2 l), decodeSignalKey, signalKey_reserved, signalKey_class, signalKey_idx1,
    signalKey_idx2, signalKey_level, core, source]
  rfl

end

end Sys2Proof.Machine
end

section
/-! PROOFS. The decoder and the encoder against each other and against the opcode table (R91 to R98). -/

namespace Sys2Proof.Machine

/-! ## Bus keys (R91) -/

/-- A bus key is its fields put together. -/
theorem busKey_fields {kind : BusKind} {k : Key} (h : k.extractLsb' 14 2 = BitVec.ofNat 2 (kindCode kind))
    (zero : k.extractLsb' 8 3 = 0#3) : busKey kind (keyBlock k) (keySize k) (keyOffset k) = k := by
  have block : blockCode (keyBlock k) = k.toNat / 2 ^ 13 % 2 := by
    rw [keyBlock, ← BitVec.testBit_toNat, Nat.testBit_eq_decide_div_mod_eq]
    split <;> simp_all [blockCode]
  have sizeCode_sizeOfCode : ∀ code : BitVec 2, sizeCode (sizeOfCode code) = code.toNat := by decide
  have := kindCode_lt kind
  rw [field_eq_iff] at h zero
  rw [← BitVec.toNat_inj, busKey_toNat, block, keySize, sizeCode_sizeOfCode, keyOffset]
  simp only [BitVec.toNat_ofNat, BitVec.extractLsb'_toNat, Nat.shiftRight_eq_div_pow] at h zero ⊢
  have := k.isLt
  omega

theorem aligned_iff (off : Offset) : aligned off = true ↔ off.toNat % 4 = 0 := beq_iff_eq

theorem between_iff (lo hi : Nat) (off : Offset) : between lo hi off = true ↔ lo ≤ off.toNat ∧ off.toNat ≤ hi := by
  simp [between]

/-- The decoder's check is the admission check of R64. -/
theorem passesStep1_eq_admitted (size : AccessSize) (off : Offset) : passesStep1 size off = admitted size off := by
  rw [Bool.eq_iff_iff, passesStep1_iff, admitted, Bool.and_eq_true, aligned_iff, beq_iff_eq]

/-- An aligned offset in the range of four registers from `16 * hi` on is that of one of them (R97, R98). -/
theorem ofNat_offsetCore {off : Offset} {hi : BitVec 4} (h4 : aligned off = true) (h : (off.extractLsb' 4 4 == hi) = true) :
    BitVec.ofNat 8 (16 * hi.toNat + 4 * (offsetCore off).val) = off := by
  rw [aligned_iff] at h4
  rw [beq_iff_eq, field_eq_iff] at h
  rw [← BitVec.toNat_inj]
  simp only [offsetCore, BitVec.toNat_ofNat, BitVec.extractLsb'_toNat, Nat.shiftRight_eq_div_pow]
  omega

/-- An aligned offset in the range of sixteen registers from `64 * hi` on is that of one of them (R97). -/
theorem ofNat_offsetMbox {off : Offset} {hi : BitVec 2} (h4 : aligned off = true) (h : (off.extractLsb' 6 2 == hi) = true) :
    BitVec.ofNat 8 (64 * hi.toNat + 4 * (offsetMbox off).val) = off := by
  rw [aligned_iff] at h4
  rw [beq_iff_eq, field_eq_iff] at h
  rw [← BitVec.toNat_inj]
  simp only [offsetMbox, BitVec.toNat_ofNat, BitVec.extractLsb'_toNat, Nat.shiftRight_eq_div_pow]
  omega

/-- An admitted access spells an instruction whose event is at its offset. -/
theorem spells_access {kind : BusKind} {blk : Block} {i : Instr} {off : Offset} {n : Nat} (wf : i.wf = true)
    (key : (encode i).key = busKey kind blk .four (BitVec.ofNat 8 n)) (hn : BitVec.ofNat 8 n = off) :
    Spells (busKey kind blk .four off) i :=
  ⟨wf, hn ▸ key⟩

/-- The aligned offsets with no read meaning are those no register of R97 takes. -/
theorem routerReadBad_iff {off : Offset} (h4 : aligned off = true) : routerReadBad off = true ↔
    off ≠ 0x0C#8 ∧ off.extractLsb' 4 4 ≠ 0x4#4 ∧ off.extractLsb' 4 4 ≠ 0x5#4 ∧ off.extractLsb' 4 4 ≠ 0x6#4 ∧
      off.extractLsb' 4 4 ≠ 0x7#4 ∧ off.extractLsb' 6 2 ≠ 0b11#2 := by
  simp only [aligned_iff, routerReadBad, between_iff, Bool.or_eq_true, ne_eq, ← BitVec.toNat_inj, BitVec.toNat_ofNat,
    BitVec.extractLsb'_toNat, Nat.shiftRight_eq_div_pow] at *
  omega

theorem decodeRouterRead_of_bad {off : Offset} (h4 : aligned off = true) (bad : routerReadBad off = true) :
    decodeRouterRead off = .rdRouterBad off := by
  simp [decodeRouterRead, (routerReadBad_iff h4).mp bad]

theorem decodeRouterRead_spelled {off : Offset} (h4 : aligned off = true) :
    Spells (busKey .read .router .four off) (decodeRouterRead off) := by
  by_cases bad : routerReadBad off = true
  · rw [decodeRouterRead_of_bad h4 bad]
    exact spells_access (by simp [Instr.wf, h4, bad]) rfl (BitVec.ofNat_toNat 8 off)
  rw [routerReadBad_iff h4] at bad
  unfold decodeRouterRead
  split_ifs with gpuRoute localCtrl mboxCtrl irqSource fiqSource word
  · exact spells_access rfl rfl (beq_iff_eq.mp gpuRoute).symm
  · exact spells_access rfl rfl (ofNat_offsetCore h4 localCtrl)
  · exact spells_access rfl rfl (ofNat_offsetCore h4 mboxCtrl)
  · exact spells_access rfl rfl (ofNat_offsetCore h4 irqSource)
  · exact spells_access rfl rfl (ofNat_offsetCore h4 fiqSource)
  · exact spells_access rfl rfl (ofNat_offsetMbox h4 word)
  · simp_all

/-- The aligned offsets with no write meaning are those no register of R97 takes. -/
theorem routerWriteBad_iff {off : Offset} (h4 : aligned off = true) : routerWriteBad off = true ↔
    off ≠ 0x0C#8 ∧ off.extractLsb' 4 4 ≠ 0x4#4 ∧ off.extractLsb' 4 4 ≠ 0x5#4 ∧ off.extractLsb' 6 2 ≠ 0b10#2 ∧
      off.extractLsb' 6 2 ≠ 0b11#2 := by
  simp only [aligned_iff, routerWriteBad, between_iff, Bool.or_eq_true, ne_eq, ← BitVec.toNat_inj, BitVec.toNat_ofNat,
    BitVec.extractLsb'_toNat, Nat.shiftRight_eq_div_pow] at *
  omega

theorem decodeRouterWrite_of_bad {off : Offset} (h4 : aligned off = true) (bad : routerWriteBad off = true) (w : Word) :
    decodeRouterWrite off w = .wrRouterBad off w := by
  simp [decodeRouterWrite, (routerWriteBad_iff h4).mp bad]

theorem decodeRouterWrite_spelled {off : Offset} (h4 : aligned off = true) (w : Word) :
    Spells (busKey .write .router .four off) (decodeRouterWrite off w) := by
  by_cases bad : routerWriteBad off = true
  · rw [decodeRouterWrite_of_bad h4 bad]
    exact spells_access (by simp [Instr.wf, h4, bad]) rfl (BitVec.ofNat_toNat 8 off)
  rw [routerWriteBad_iff h4] at bad
  unfold decodeRouterWrite
  split_ifs with gpuRoute localCtrl mboxCtrl set clear
  · exact spells_access rfl rfl (beq_iff_eq.mp gpuRoute).symm
  · exact spells_access rfl rfl (ofNat_offsetCore h4 localCtrl)
  · exact spells_access rfl rfl (ofNat_offsetCore h4 mboxCtrl)
  · exact spells_access rfl rfl (ofNat_offsetMbox h4 set)
  · exact spells_access rfl rfl (ofNat_offsetMbox h4 clear)
  · simp_all

/-- The aligned offsets with no read meaning are those no register of R98 takes. -/
theorem mboxReadBad_iff {off : Offset} (h4 : aligned off = true) : mboxReadBad off = true ↔
    off.extractLsb' 4 4 ≠ 0x8#4 ∧ off ≠ 0x90#8 ∧ off ≠ 0x94#8 ∧ off ≠ 0x98#8 ∧ off ≠ 0x9C#8 ∧ off ≠ 0xB8#8 := by
  have := off.isLt
  simp only [aligned_iff, mboxReadBad, between_iff, Bool.or_eq_true, ne_eq, ← BitVec.toNat_inj, BitVec.toNat_ofNat,
    BitVec.extractLsb'_toNat, Nat.shiftRight_eq_div_pow] at *
  omega

theorem decodeMboxRead_of_bad {off : Offset} (h4 : aligned off = true) (bad : mboxReadBad off = true) :
    decodeMboxRead off = .rdMboxBad off := by
  simp [decodeMboxRead, (mboxReadBad_iff h4).mp bad]

theorem decodeMboxRead_spelled {off : Offset} (h4 : aligned off = true) :
    Spells (busKey .read .mbox .four off) (decodeMboxRead off) := by
  by_cases bad : mboxReadBad off = true
  · rw [decodeMboxRead_of_bad h4 bad]
    exact spells_access (by simp [Instr.wf, h4, bad]) rfl (BitVec.ofNat_toNat 8 off)
  rw [mboxReadBad_iff h4] at bad
  unfold decodeMboxRead
  split_ifs with pop peek sender status0 config status1
  · exact spells_access rfl rfl (ofNat_offsetCore h4 pop)
  · exact spells_access rfl rfl (beq_iff_eq.mp peek).symm
  · exact spells_access rfl rfl (beq_iff_eq.mp sender).symm
  · exact spells_access rfl rfl (beq_iff_eq.mp status0).symm
  · exact spells_access rfl rfl (beq_iff_eq.mp config).symm
  · exact spells_access rfl rfl (beq_iff_eq.mp status1).symm
  · simp_all

/-- The aligned offsets with no write meaning are those no register of R98 takes. -/
theorem mboxWriteBad_iff {off : Offset} (h4 : aligned off = true) : mboxWriteBad off = true ↔
    off ≠ 0x9C#8 ∧ off.extractLsb' 4 4 ≠ 0xA#4 := by
  have := off.isLt
  simp only [aligned_iff, mboxWriteBad, between_iff, Bool.or_eq_true, ne_eq, ← BitVec.toNat_inj, BitVec.toNat_ofNat,
    BitVec.extractLsb'_toNat, Nat.shiftRight_eq_div_pow] at *
  omega

theorem decodeMboxWrite_of_bad {off : Offset} (h4 : aligned off = true) (bad : mboxWriteBad off = true) (w : Word) :
    decodeMboxWrite off w = .wrMboxBad off w := by
  simp [decodeMboxWrite, (mboxWriteBad_iff h4).mp bad]

theorem decodeMboxWrite_spelled {off : Offset} (h4 : aligned off = true) (w : Word) :
    Spells (busKey .write .mbox .four off) (decodeMboxWrite off w) := by
  by_cases bad : mboxWriteBad off = true
  · rw [decodeMboxWrite_of_bad h4 bad]
    exact spells_access (by simp [Instr.wf, h4, bad]) rfl (BitVec.ofNat_toNat 8 off)
  rw [mboxWriteBad_iff h4] at bad
  unfold decodeMboxWrite
  split_ifs with config push
  · exact spells_access rfl rfl (beq_iff_eq.mp config).symm
  · exact spells_access rfl rfl (ofNat_offsetCore h4 push)
  · simp_all

/-- A bus access, admitted or not, decodes to an instruction its own key spells (R95). -/
theorem decodeBus_spelled (kind : BusKind) (blk : Block) (size : AccessSize) (off : Offset) (w : Word) :
    Spells (busKey kind blk size off) (decodeBus kind blk size off w) := by
  cases check : passesStep1 size off with
  | false =>
    have rejected : admitted size off = false := passesStep1_eq_admitted size off ▸ check
    cases blk <;> cases kind <;> simp [decodeBus, check, Spells, Instr.wf, rejectedAccess, rejected, encode]
  | true =>
    obtain ⟨rfl, h⟩ := (passesStep1_iff size off).mp check
    have h4 := (aligned_iff off).mpr h
    cases blk <;> cases kind <;> simp only [decodeBus, check]
    · exact decodeRouterRead_spelled h4
    · exact decodeRouterWrite_spelled h4 w
    · exact decodeMboxRead_spelled h4
    · exact decodeMboxWrite_spelled h4 w

/-- Whatever the event, its key spells the instruction it decodes to. -/
theorem decode_spelled (e : Event) : Spells e.key (decode e) := by
  obtain ⟨k, w⟩ := e
  by_cases reserved : isReservedKey k = true
  · rw [decode_of_reserved w reserved]
    exact ⟨reserved, rfl⟩
  obtain ⟨kind, h⟩ | h | h := key_kind k
  · rw [isReservedKey_bus kind h, not_not] at reserved
    rw [decode_bus kind w h, decodeBusKey, if_pos (beq_iff_eq.mpr reserved)]
    simpa only [busKey_fields h reserved] using decodeBus_spelled kind (keyBlock k) (keySize k) (keyOffset k) w
  · rw [decode_signal w h]
    exact decodeSignalKey_spelled h
  · rw [isReservedKey_reset h, not_and_or, not_not, not_not] at reserved
    rw [decode_reset w h]
    obtain rfl | rfl := reserved <;> exact ⟨rfl, rfl⟩

/-- Settles O2: for every kind of key, and for every bus access by its registers' offsets. -/
theorem decodedInstrKeepsKey : Obligations.DecodedInstrKeepsKey := decode_spelled

/-- Settles O6: a reserved key reaches no event, and what decodes to RESERVED_KEY is well-formed, so reserved. -/
theorem reservedKeysAreRefused : Obligations.ReservedKeysAreRefused := by
  intro e
  refine ⟨⟨fun named => ?_, fun reserved => decode_of_reserved e.wdata reserved⟩, fun s rest reserved waiting => ?_⟩
  · obtain ⟨wf, -⟩ := decode_spelled e
    rwa [named] at wf
  · obtain ⟨runs, -⟩ := stepRunsDecodedEvent
    rw [runs s e rest waiting, decode_of_reserved e.wdata reserved]
    rfl

/-! ## Decoding the encoding -/

theorem decode_readEvent (blk : Block) (n : Nat) : decode (readEvent blk n) = decodeBus .read blk .four (BitVec.ofNat 8 n) 0#32 :=
  decode_busKey .read blk .four _ 0#32

theorem decode_writeEvent (blk : Block) (n : Nat) (w : Word) :
    decode (writeEvent blk n w) = decodeBus .write blk .four (BitVec.ofNat 8 n) w :=
  decode_busKey .write blk .four _ w

/-- Settles O1: a register by its offset, a bad access by its range or by the check before it, a signal by the fields of its key. -/
theorem decodeOfEncode : Obligations.DecodeOfEncode := by
  intro i wf
  cases i with
  | rdGpuRoute | rdPeek | rdSender | rdStatus0 | rdConfig | rdStatus1 => exact decode_readEvent _ _
  | wrGpuRoute w | wrConfig w => exact decode_writeEvent _ _ w
  | rdLocalRouteCtrl c | rdMboxRouteCtrl c | rdIrqSource c | rdFiqSource c | rdMbox c | rdPop c =>
    rw [encode, decode_readEvent]
    fin_cases c <;> rfl
  | wrLocalRouteCtrl c w | wrMboxRouteCtrl c w | wrMboxSet c w | wrMboxClr c w | wrPush c w =>
    rw [encode, decode_writeEvent]
    fin_cases c <;> rfl
  | rdRouterBad off | rdMboxBad off =>
    obtain ⟨h4, bad⟩ := Bool.and_eq_true_iff.mp wf
    rw [encode, decode_readEvent, BitVec.ofNat_toNat, BitVec.setWidth_eq]
    simp [decodeBus, passesStep1_eq_admitted, admitted, h4, decodeRouterRead_of_bad, decodeMboxRead_of_bad, bad]
  | wrRouterBad off w | wrMboxBad off w =>
    obtain ⟨h4, bad⟩ := Bool.and_eq_true_iff.mp wf
    rw [encode, decode_writeEvent, BitVec.ofNat_toNat, BitVec.setWidth_eq]
    simp [decodeBus, passesStep1_eq_admitted, admitted, h4, decodeRouterWrite_of_bad, decodeMboxWrite_of_bad, bad]
  | routerBadAccess kind size off w | mboxBadAccess kind size off w =>
    have rejected : admitted size off = false ∧ (kind = .write ∨ w = 0#32) := by
      simpa [Instr.wf, rejectedAccess] using wf
    rw [encode, decode_busKey]
    cases kind <;> simp_all [decodeBus, passesStep1_eq_admitted]
  | sigLocalIrq c i l => exact decode_signalKey 0#4 (.ofFin c) (.ofFin i) l rfl 0#32
  | sigGpuIrq l => exact decode_signalKey 1#4 0#4 0#2 l rfl 0#32
  | sigGpuFiq l => exact decode_signalKey 2#4 0#4 0#2 l rfl 0#32
  | sigChannelAvailable ch l => exact decode_signalKey 3#4 (.ofFin ch) 0#2 l rfl 0#32
  | resetRouter | resetMbox => exact decode_reset _ rfl
  | reservedKey key => exact decode_of_reserved _ wf

end Sys2Proof.Machine

namespace Sys2Proof.Laws.TableRow

/-- Every well-formed instruction is in the opcode table under its mnemonic. -/
theorem instr_fits_row : ∀ i : Instr, Statement i
  | .rdGpuRoute => rdGpuRoute
  | .wrGpuRoute w => wrGpuRoute w
  | .rdLocalRouteCtrl c => rdLocalRouteCtrl c
  | .wrLocalRouteCtrl c w => wrLocalRouteCtrl c w
  | .rdMboxRouteCtrl c => rdMboxRouteCtrl c
  | .wrMboxRouteCtrl c w => wrMboxRouteCtrl c w
  | .rdIrqSource c => rdIrqSource c
  | .rdFiqSource c => rdFiqSource c
  | .wrMboxSet m w => wrMboxSet m w
  | .rdMbox m => rdMbox m
  | .wrMboxClr m w => wrMboxClr m w
  | .rdRouterBad off => rdRouterBad off
  | .wrRouterBad off w => wrRouterBad off w
  | .routerBadAccess kind size off w => routerBadAccess kind size off w
  | .rdPop r => rdPop r
  | .rdPeek => rdPeek
  | .rdSender => rdSender
  | .rdStatus0 => rdStatus0
  | .rdConfig => rdConfig
  | .rdStatus1 => rdStatus1
  | .wrConfig w => wrConfig w
  | .wrPush r w => wrPush r w
  | .rdMboxBad off => rdMboxBad off
  | .wrMboxBad off w => wrMboxBad off w
  | .mboxBadAccess kind size off w => mboxBadAccess kind size off w
  | .sigLocalIrq c i l => sigLocalIrq c i l
  | .sigGpuIrq l => sigGpuIrq l
  | .sigGpuFiq l => sigGpuFiq l
  | .sigChannelAvailable ch l => sigChannelAvailable ch l
  | .resetRouter => resetRouter
  | .resetMbox => resetMbox
  | .reservedKey key => reservedKey key

end Sys2Proof.Laws.TableRow

namespace Sys2Proof.Machine

/-- Settles O4: the decoded instruction is well-formed, so its own key, which is the event's, fits a row of its mnemonic. -/
theorem decodeFollowsOpcodeTable : Obligations.DecodeFollowsOpcodeTable := by
  intro e
  obtain ⟨wf, key⟩ := decode_spelled e
  rw [← key]
  exact Laws.TableRow.instr_fits_row (decode e) wf

/-- Settles O5: each key's kind is read off, then the fields of its kind. -/
theorem decodeOfWrittenOutKeys : Obligations.DecodeOfWrittenOutKeys := by
  intro w
  have read := @decode_bus .read
  have write := @decode_bus .write
  exact ⟨read w rfl, write w rfl, read w rfl, write w rfl, read w rfl, read w rfl, write w rfl, read w rfl, write w rfl,
    read w rfl, read w rfl, write w rfl, read w rfl, decode_signal w rfl, decode_signal w rfl, decode_signal w rfl,
    decode_reset w rfl, decode_reset w rfl⟩

end Sys2Proof.Machine
end

section
/-! PROOFS. Signal indices out of range (R96, R233), and the value a read returns (R90). -/

namespace Sys2Proof.Machine

/-! ## Signal indices out of range (R96, R233) -/

theorem sigLocalIrq_of_out_of_range {c : Fin 16} (h : 4 ≤ c.val) (i : Fin 4) (l : Bool) (s : State) :
    sigLocalIrq c i l s = raiseFatal .router .signalIndex s :=
  dif_neg (Nat.not_lt.mpr h)

theorem sigChannel_of_out_of_range {ch : Fin 16} (h : 9 ≤ ch.val) (recompute : State → State) (l : Bool) (s : State) :
    sigChannel recompute ch l s = raiseFatal .mbox .signalIndex s :=
  dif_neg (Nat.not_lt.mpr h)

/-- Settles O25: the block runs, its event raises the fatal signal, and a clear flag takes its kind. -/
theorem signalIndexOutOfRangeIsFatal : Obligations.SignalIndexOutOfRangeIsFatal := by
  intro s n i l
  constructor
  · intro outOfRange running
    rw [exec_sigLocalIrq, onEvent_next, sigLocalIrq_of_out_of_range outOfRange, raiseFatal_router_eq]
    simp [running]
  · intro outOfRange running
    rw [exec_sigChannelAvailable, onEvent_next, sigChannel_of_out_of_range outOfRange, raiseFatal_mbox_eq]
    simp [running]

/-! ## The value a read returns (R90) -/

theorem mboxRecompute_rdata (s : State) : (mboxRecompute s).rdata = s.rdata := by
  have frame := mboxRecompute_frame s
  rw [RecomputeFrame] at frame
  rw [frame]

/-- A read that recomputes returns its value unless the block stopped (R200 to R204). -/
theorem recomputeThenReply_returns {v : Word} {s : State} (running : (recomputeThenReply v s).mboxFatal = none) :
    (recomputeThenReply v s).rdata = some v := by
  unfold recomputeThenReply at running ⊢
  obtain ⟨stops, he⟩ | ⟨-, he⟩ := unlessStopped_cases (mboxRecompute s) .mbox (reply v)
  · rw [he] at running
    simp [running] at stops
  · rw [he]
    rfl

theorem popEffect_recomputes (s : State) : ∃ v u, popEffect s = recomputeThenReply v u := by
  unfold popEffect
  split <;> exact ⟨_, _, rfl⟩

/-- A read of a running block leaves a value, a mailbox read unless it stopped the block. -/
theorem effect_returns_of_isRead {i : Instr} (read : isRead i = true) (s : State)
    (ends : isRouterEvent i = true ∨ (effect i s).mboxFatal = none) : (effect i s).rdata ≠ none := by
  cases i with
  | rdGpuRoute | rdLocalRouteCtrl c | rdMboxRouteCtrl c | rdIrqSource c | rdFiqSource c | rdMbox m | rdRouterBad off | rdStatus0
    | rdStatus1 | rdMboxBad off => exact Option.some_ne_none _
  | routerBadAccess kind size off w | mboxBadAccess kind size off w =>
    cases kind with
    | read => exact Option.some_ne_none _
    | write => cases read
  | rdPeek | rdSender | rdConfig =>
    have running := ends.resolve_left Bool.false_ne_true
    exact recomputeThenReply_returns running ▸ Option.some_ne_none _
  | rdPop r =>
    have running : (popEffect s).mboxFatal = none := ends.resolve_left Bool.false_ne_true
    obtain ⟨v, u, he⟩ := popEffect_recomputes s
    show (popEffect s).rdata ≠ none
    rw [he] at running ⊢
    exact recomputeThenReply_returns running ▸ Option.some_ne_none _
  | _ => cases read

section
variable {s : State}

theorem unlessStopped_rdata (b : Block) {f : State → State} (h : (f s).rdata = s.rdata) : (unlessStopped b f s).rdata = s.rdata :=
  unlessStopped_keeps (P := fun t => t.rdata = s.rdata) (fun _ => h) rfl

theorem sigLocalIrq_rdata (c : Fin 16) (i : Fin 4) (l : Bool) : (sigLocalIrq c i l s).rdata = s.rdata := by
  have frame := sigLocalIrq_signalFrame c i l s
  rw [SignalFrame] at frame
  rw [frame]

theorem sigChannel_rdata (ch : Fin 16) (l : Bool) : (sigChannel mboxRecompute ch l s).rdata = s.rdata :=
  sigChannel_keeps (fun t => t.rdata = s.rdata) (fun _ _ h => h) (fun h => h) (fun h => (mboxRecompute_rdata _).trans h) ch rfl

theorem deliverInPush_rdata (sig : Signal) : (deliverInPush sig s).rdata = s.rdata := by
  cases sig with
  | localIrq c i l => exact unlessStopped_rdata .router (sigLocalIrq_rdata c i l)
  | gpuIrq l => exact unlessStopped_rdata .router rfl
  | gpuFiq l => exact unlessStopped_rdata .router rfl
  | channel ch l => exact unlessStopped_rdata .mbox (sigChannel_rdata ch l)

theorem memAccess_push_rdata (req : MboxRequest) : (memAccess deliverInPush req s).rdata = s.rdata :=
  memAccess_induct (P := fun t => t.rdata = s.rdata) (fun sig _ h => (deliverInPush_rdata sig).trans h) req rfl

theorem pushWq_rdata (w : Word) : (pushWq w s).rdata = s.rdata := by
  unfold pushWq
  split <;> rfl

theorem pushToChannel_rdata (w : Word) : (pushToChannel w s).rdata = s.rdata := by
  refine (unlessStopped_rdata .mbox ?_).trans (memAccess_push_rdata _)
  split
  · exact pushWq_rdata w
  · exact memAccess_push_rdata _

theorem pushEffect_rdata (r : Fin 4) (w : Word) : (pushEffect r w s).rdata = s.rdata := by
  refine (unlessStopped_rdata .mbox (mboxRecompute_rdata _)).trans ?_
  split
  · rfl
  split
  · rfl
  · exact pushToChannel_rdata w

/-- No other event touches the value a read left. -/
theorem effect_rdata_of_not_isRead {i : Instr} (other : isRead i = false) : (effect i s).rdata = s.rdata := by
  cases i with
  | wrGpuRoute w | wrLocalRouteCtrl c w | wrMboxRouteCtrl c w | wrMboxSet m w | wrMboxClr m w | wrRouterBad off w | wrMboxBad off w
    | sigGpuIrq l | sigGpuFiq l | resetRouter | reservedKey key => rfl
  | routerBadAccess kind size off w | mboxBadAccess kind size off w =>
    cases kind with
    | read => cases other
    | write => rfl
  | wrConfig w | resetMbox => exact mboxRecompute_rdata _
  | wrPush r w => exact pushEffect_rdata r w
  | sigLocalIrq c i l => exact sigLocalIrq_rdata c i l
  | sigChannelAvailable ch l => exact sigChannel_rdata ch l
  | _ => cases other

end

/-- Settles O53: an event begins with no value, a read ends with a reply, and nothing else replies. -/
theorem readsAndOnlyReadsReturn : Obligations.ReadsAndOnlyReadsReturn := by
  intro i s t he
  obtain ⟨b, -, -, rfl⟩ := exec_next he
  exact ⟨fun read ends => effect_returns_of_isRead read _ ends, fun other => effect_rdata_of_not_isRead other⟩

end Sys2Proof.Machine
end

section
/-! PROOFS. The routing and masking matrix bit by bit (R120 to R123), and the router's inbound signals (R124 to R127). -/

namespace Sys2Proof.Machine

/-! ## The closed form -/

theorem SameInputs.inputs {r q : Router} (h : SameInputs r q) : q.inputs = r.inputs := by
  rw [SameInputs] at h
  rw [h]
  rfl

/-- Settles O13: the steps only mark sources and drive lines, so the inputs stay. -/
theorem recomputeIsClosedForm : Obligations.RecomputeIsClosedForm := by
  intro r c
  obtain ⟨irqSource, fiqSource, irqOut, fiqOut⟩ := routerRecompute_closed r c
  exact ⟨irqSource, fiqSource, irqOut, fiqOut, (routerRecompute_sameInputs r).inputs⟩

/-! ## The snapshots, source by source (R121, R122) -/

section
variable (r : Router) (c i : Core)

theorem irqClosed_local : (r.irqClosed c).getLsbD i.val =
    (r.localIrqBits[c].getLsbD i.val && r.localRouteCtrl[c].getLsbD i.val && !r.localRouteCtrl[c].getLsbD (4 + i.val)) := by
  rw [Router.irqClosed, snapshot_getLsbD]
  simp [show i.val ≠ 8 by omega, show ¬4 ≤ i.val by omega]

theorem fiqClosed_local : (r.fiqClosed c).getLsbD i.val =
    (r.localIrqBits[c].getLsbD i.val && r.localRouteCtrl[c].getLsbD (4 + i.val)) := by
  rw [Router.fiqClosed, snapshot_getLsbD]
  simp [show i.val ≠ 8 by omega, show ¬4 ≤ i.val by omega]

theorem irqClosed_mailbox : (r.irqClosed c).getLsbD (4 + i.val) =
    (r.mailboxBit c i && r.mailboxRouteCtrl[c].getLsbD i.val && !r.mailboxRouteCtrl[c].getLsbD (4 + i.val)) := by
  rw [Router.irqClosed, snapshot_getLsbD]
  simp [show 4 + i.val ≠ 8 by omega, ← mailboxBits_getLsbD]

theorem fiqClosed_mailbox : (r.fiqClosed c).getLsbD (4 + i.val) =
    (r.mailboxBit c i && r.mailboxRouteCtrl[c].getLsbD (4 + i.val)) := by
  rw [Router.fiqClosed, snapshot_getLsbD]
  simp [show 4 + i.val ≠ 8 by omega, ← mailboxBits_getLsbD]

theorem irqClosed_gpu : (r.irqClosed c).getLsbD 8 = true ↔ r.gpuIrqLevel = true ∧ c.val = r.gpuIrqRoute.toNat := by
  rw [Router.irqClosed, snapshot_getLsbD]
  simp [routeCore, Fin.ext_iff, eq_comm (a := c.val)]

theorem fiqClosed_gpu : (r.fiqClosed c).getLsbD 8 = true ↔ r.gpuFiqLevel = true ∧ c.val = r.gpuFiqRoute.toNat := by
  rw [Router.fiqClosed, snapshot_getLsbD]
  simp [routeCore, Fin.ext_iff, eq_comm (a := c.val)]

end

/-- Settles O14: the FIQ bit asks for the FIQ enable, the IRQ bit for its absence. -/
theorem fiqTakesPrecedence : Obligations.FiqTakesPrecedence := by
  intro r c i
  simp only [routerRecompute_closed, irqClosed_local, fiqClosed_local, irqClosed_mailbox, fiqClosed_mailbox]
  constructor
  · intro active _ fiqEnable
    rw [active, fiqEnable]
    simp
  · intro nonzero _ fiqEnable
    have active : r.mailboxBit c i = true := bne_iff_ne.mpr nonzero
    rw [active, fiqEnable]
    simp

/-- A snapshot with a bit set asserts its line (R123). -/
theorem bne_zero_of_getLsbD {w n : Nat} {v : BitVec w} (set : v.getLsbD n = true) : (v != 0#w) = true := by
  rw [bne_iff_ne]
  rintro rfl
  simp at set

/-- Settles O15: bit 8 depends on no route-control register, and a set bit asserts its line. -/
theorem gpuLinesFollowRoutesUnmasked : Obligations.GpuLinesFollowRoutesUnmasked := by
  intro r c
  simp only [routerRecompute_closed]
  refine ⟨irqClosed_gpu r c, fiqClosed_gpu r c, fun irqHigh fiqHigh sameRoute here => ?_⟩
  have irqBit := (irqClosed_gpu r c).mpr ⟨irqHigh, here⟩
  have fiqBit := (fiqClosed_gpu r c).mpr ⟨fiqHigh, sameRoute ▸ here⟩
  exact ⟨irqBit, fiqBit, bne_zero_of_getLsbD irqBit, bne_zero_of_getLsbD fiqBit⟩

/-! ## Router signals (R124 to R127) -/

theorem setBit_getLsbD {w i : Nat} (v : BitVec w) (hi : i < w) (b : Bool) (n : Nat) :
    (setBit v i b).getLsbD n = if n = i then b else v.getLsbD n := by
  have oneBit : (1#w <<< i).getLsbD n = decide (n = i) := by simpa using getLsbD_flag hi true n
  unfold setBit
  by_cases hn : n = i
  · subst hn
    cases b <;> simp [hi]
  · cases b
    · simpa [oneBit, hn] using BitVec.lt_of_getLsbD
    · simp [oneBit, hn]

/-- What a router line's event latches before the recompute (R125 to R127). -/
def RouterLine.latch (n : RouterLine) (l : Bool) (r : Router) : Router :=
  match n with
  | .localLine c i => r.setLocalIrq c i l
  | .gpuIrqLine => { r with gpuIrqLevel := l }
  | .gpuFiqLine => { r with gpuFiqLevel := l }

/-- A router line's event latches the level and recomputes. -/
theorem exec_routerLine (n : RouterLine) (l : Bool) (s : State) :
    exec (n.event l) s = onEvent .router (updateRouter (n.latch l)) s := by
  cases n with
  | localLine c i => exact congrArg (onEvent .router · s) (funext fun _ => dif_pos c.isLt)
  | gpuIrqLine | gpuFiqLine => rfl

theorem routerRecompute_outputsCurrent (r : Router) : OutputsCurrent (routerRecompute r) := by
  intro c
  rw [(routerRecompute_sameInputs r).irqClosed, (routerRecompute_sameInputs r).fiqClosed]
  exact routerRecompute_closed r c

/-- An event that updates the router's inputs by `f` changes those, makes the outputs current, and changes nothing else. -/
theorem updateRouter_becomes (f : Router → Router) (s : State) :
    RouterBecomes (f s.router) s (updateRouter f { s with rdata := none }) :=
  ⟨(routerRecompute_sameInputs _).inputs, routerRecompute_outputsCurrent _, rfl⟩

/-- A signal on a router line of a running router completes, and the router becomes what the line latches. -/
theorem routerLine_becomes (n : RouterLine) (l : Bool) {s : State} (running : s.routerFatal = none) :
    ∃ t, exec (n.event l) s = .next t ∧ RouterBecomes (n.latch l s.router) s t := by
  refine ⟨updateRouter (n.latch l) { s with rdata := none }, ?_, updateRouter_becomes _ s⟩
  rw [exec_routerLine, onEvent_next]
  simp [running]

/-- Settles O24: a core index in range names a local line, and a line's event makes the router what the line latches. -/
theorem routerSignalsResult : Obligations.RouterSignalsResult := by
  intro s l running
  refine ⟨fun c i h => ?_, routerLine_becomes .gpuIrqLine l running, routerLine_becomes .gpuFiqLine l running⟩
  obtain ⟨t, runs, becomes⟩ := routerLine_becomes (.localLine ⟨c.val, h⟩ i) l running
  have bits : t.router.localIrqBits = s.router.localIrqBits.set c.val (setBit s.router.localIrqBits[c.val] i.val l) :=
    congrArg Router.localIrqBits becomes.1
  have ownBits : t.router.localIrqBits[c.val] = setBit s.router.localIrqBits[c.val] i.val l := by
    simp [bits]
  refine ⟨t, runs, ?_⟩
  rw [ownBits]
  exact ⟨setBit_getLsbD _ i.isLt l, becomes⟩

/-! ## A repeated level (R123, R125) -/

/-- What a line latches depends on no output, and it writes none. -/
theorem RouterLine.latch_sameInputs (n : RouterLine) (l : Bool) {r q : Router} (h : SameInputs r q) :
    SameInputs (n.latch l r) (n.latch l q) := by
  rw [SameInputs] at h
  rw [h]
  cases n <;> rfl

theorem setBit_setBit {w i : Nat} (v : BitVec w) (hi : i < w) (b : Bool) : setBit (setBit v i b) i b = setBit v i b := by
  refine BitVec.eq_of_getLsbD_eq fun n _ => ?_
  rw [setBit_getLsbD _ hi, setBit_getLsbD _ hi]
  split <;> rfl

theorem RouterLine.latch_latch (n : RouterLine) (l : Bool) (r : Router) : n.latch l (n.latch l r) = n.latch l r := by
  cases n with
  | localLine c i => simp [RouterLine.latch, Router.setLocalIrq, setBit_setBit _ i.isLt]
  | gpuIrqLine | gpuFiqLine => rfl

/-- Latching the same level again changes no input, so the recompute gives the same router. -/
theorem routerRecompute_latch_again (n : RouterLine) (l : Bool) (r : Router) :
    routerRecompute (n.latch l (routerRecompute (n.latch l r))) = routerRecompute (n.latch l r) := by
  have same := n.latch_sameInputs l (routerRecompute_sameInputs (n.latch l r))
  rw [n.latch_latch] at same
  exact routerRecompute_congr same

theorem lineEvents_self (s : State) : lineEvents s s = [] := by
  simp [lineEvents]

/-- Settles O26: the second delivery latches what is latched, and a state against itself has no line event. -/
theorem repeatedLevelChangesNothing : Obligations.RepeatedLevelChangesNothing := by
  intro s t u n l first second
  rw [exec_routerLine, onEvent_next] at first second
  obtain ⟨-, rfl⟩ := first
  obtain ⟨-, rfl⟩ := second
  have again : updateRouter (n.latch l) { updateRouter (n.latch l) { s with rdata := none } with rdata := none } =
      updateRouter (n.latch l) { s with rdata := none } := by
    simp [updateRouter, routerRecompute_latch_again]
  rw [again]
  exact ⟨rfl, lineEvents_self _⟩

end Sys2Proof.Machine
end

section
/-! PROOFS. The router's register accesses (R140 to R153). -/

namespace Sys2Proof.Machine

/-- A running router completes its event with the effect the frame is given (R233). -/
theorem onEvent_router_of_running {s : State} (running : s.routerFatal = none) (f : State → State) :
    onEvent .router f s = .next (f { s with rdata := none }) := by
  rw [onEvent_next]
  simp [running]

/-! ## Register writes (R141, R143, R145, R148, R150) -/

/-- Settles O18: the two fields of the written word are its lowest two digits to the base 4, and the recompute writes no route. -/
theorem wrGpuRouteResult : Obligations.WrGpuRouteResult := by
  intro s w running
  rw [exec_wrGpuRoute]
  refine ⟨_, onEvent_router_of_running running _, ?_, ?_, updateRouter_becomes _ s⟩
  · simp [gpuIrqField]
  · simp [gpuFiqField, Nat.shiftRight_eq_div_pow]

/-- Settles O19: the recompute reads the enables that were written and writes none. -/
theorem wrRouteCtrlResult : Obligations.WrRouteCtrlResult := by
  intro s c w running
  rw [exec_wrLocalRouteCtrl, exec_wrMboxRouteCtrl]
  constructor
  · exact ⟨_, onEvent_router_of_running running _, by simp [ctrlField], updateRouter_becomes _ s⟩
  · exact ⟨_, onEvent_router_of_running running _, by simp [ctrlField], updateRouter_becomes _ s⟩

/-- Settles O20: each write replaces one word, and the recompute writes no mailbox word. -/
theorem wrMboxSetAndClrResult : Obligations.WrMboxSetAndClrResult := by
  intro s m w running
  rw [exec_wrMboxSet, exec_wrMboxClr]
  constructor
  · exact ⟨_, onEvent_router_of_running running _, by simp, updateRouter_becomes _ s⟩
  · exact ⟨_, onEvent_router_of_running running _, by simp, updateRouter_becomes _ s⟩

/-! ## Register reads (R140, R142, R144, R146, R147, R149) -/

/-- GPU_ROUTE bit by bit: the IRQ route in bits 1 and 0, the FIQ route from bit 2 on (R140). -/
theorem gpuRouteWord_getLsbD (r : Router) {n : Nat} (hn : n < 32) :
    (gpuRouteWord r).getLsbD n = if n < 2 then r.gpuIrqRoute.getLsbD n else r.gpuFiqRoute.getLsbD (n - 2) := by
  unfold gpuRouteWord
  by_cases low : n < 2
  · simp [low, hn]
  · simp [low, hn, BitVec.getLsbD_of_ge r.gpuIrqRoute n (by omega)]

theorem gpuRouteWord_irqRoute (r : Router) : (gpuRouteWord r).extractLsb' 0 2 = r.gpuIrqRoute := by
  refine BitVec.eq_of_getLsbD_eq fun n hn => ?_
  rw [BitVec.getLsbD_extractLsb', gpuRouteWord_getLsbD r (by omega)]
  simp [hn]

theorem gpuRouteWord_fiqRoute (r : Router) : (gpuRouteWord r).extractLsb' 2 2 = r.gpuFiqRoute := by
  refine BitVec.eq_of_getLsbD_eq fun n hn => ?_
  rw [BitVec.getLsbD_extractLsb', gpuRouteWord_getLsbD r (by omega)]
  simp [hn, show ¬2 + n < 2 by omega]

theorem gpuRouteWord_above (r : Router) : (gpuRouteWord r).extractLsb' 4 28 = 0#28 := by
  refine BitVec.eq_of_getLsbD_eq fun n hn => ?_
  rw [BitVec.getLsbD_extractLsb', gpuRouteWord_getLsbD r (by omega)]
  simp [show ¬4 + n < 2 by omega, BitVec.getLsbD_of_ge r.gpuFiqRoute (4 + n - 2) (by omega)]

/-- A register read returns its value and changes nothing. -/
theorem routerRead_returns {s : State} (running : s.routerFatal = none) (value : Router → Word) :
    onEvent .router (fun s => reply (value s.router) s) s = .next { s with rdata := some (value s.router) } :=
  onEvent_router_of_running running _

/-- The read of a field of at most 32 bits returns the field's number and changes nothing. -/
theorem routerFieldRead_returns {s : State} (running : s.routerFatal = none) {n : Nat} (hn : n ≤ 32) (field : Router → BitVec n) :
    ∃ v : Word, onEvent .router (fun s => reply ((field s.router).setWidth 32) s) s = .next { s with rdata := some v } ∧
      v.toNat = (field s.router).toNat :=
  ⟨_, routerRead_returns running fun r => (field r).setWidth 32, BitVec.toNat_setWidth_of_le hn⟩

/-- Settles O21: GPU_ROUTE packs its two routes, every other narrow field is zero-extended, and a mailbox word is read whole. -/
theorem routerReadsResult : Obligations.RouterReadsResult := by
  intro s running
  refine ⟨?_, fun c => ⟨?_, ?_, ?_, ?_⟩, fun m => ?_⟩
  · exact ⟨gpuRouteWord s.router, routerRead_returns running gpuRouteWord, gpuRouteWord_irqRoute _, gpuRouteWord_fiqRoute _,
      gpuRouteWord_above _⟩
  · exact routerFieldRead_returns running (by decide) fun r => r.localRouteCtrl[c]
  · exact routerFieldRead_returns running (by decide) fun r => r.mailboxRouteCtrl[c]
  · exact routerFieldRead_returns running (by decide) fun r => r.irqSource[c]
  · exact routerFieldRead_returns running (by decide) fun r => r.fiqSource[c]
  · exact routerRead_returns running fun r => r.mboxWord[m]

/-! ## Bad accesses (R151 to R153) -/

/-- Recomputing a router that is not stale changes nothing (R28, R29). -/
theorem updateRouter_id_of_fresh {s : State} (fresh : s.router.Fresh) : updateRouter id s = s := by
  rw [updateRouter, id, fresh]

/-- Settles O23: each access logs its record, and the recompute of a bad write finds nothing stale. -/
theorem routerBadAccessesOnlyLog : Obligations.RouterBadAccessesOnlyLog := by
  intro s off w size running fresh
  rw [exec_rdRouterBad, exec_wrRouterBad, exec_routerBadAccess_read, exec_routerBadAccess_write]
  simp only [onEvent_router_of_running running]
  refine ⟨rfl, ?_, rfl, rfl⟩
  have logKeepsFresh : (logDiag .router .routerBadWrite off w { s with rdata := none }).router.Fresh := fresh
  rw [updateRouter_id_of_fresh logKeepsFresh]
  rfl

end Sys2Proof.Machine
end

section
/-! PROOFS. The queue primitives (R170, R171), the guard (R175), and the drain read by read (R173 to R177). -/

namespace Sys2Proof.Machine

/-! ## Queues (R170, R171) -/

theorem Queue.entries_length {q : Queue} (bound : q.count ≤ 32) : q.entries.length = q.count := by
  simpa [Queue.entries] using bound

theorem Queue.entries_getElem (q : Queue) {n : Nat} (hn : n < q.entries.length) :
    q.entries[n] = q.reg[n]'(by simp [Queue.entries] at hn; omega) := by
  simp [Queue.entries]

theorem Queue.push_entries {q : Queue} (v : Word) (room : q.count < 32) : (q.push v).entries = q.entries ++ [v] := by
  simp only [Queue.entries, Queue.push, Vector.toList_setIfInBounds]
  rw [← List.take_append_getElem (i := q.count) (by simpa using room)]
  simp [List.take_set_of_le]

/-- Settles O30: the tail is the first free slot, and the word may be any. -/
theorem queuePushAppends : Obligations.QueuePushAppends := by
  intro q v sentinel ok room
  exact ⟨Queue.push_entries v room, rfl, Queue.push_ok room ok⟩

/-- The compaction moves the entry of each slot after the first of `m + 1` one slot down. -/
theorem compaction_moves_down (sentinel : Word) (reg : Vector Word 32) {m n : Nat} (hm : m < 32) (hn : n < m) :
    ((List.range m).foldl (fun reg n => reg.setIfInBounds n (slotAt sentinel reg (n + 1))) reg)[n] = reg[n + 1] := by
  induction m with
  | zero => omega
  | succ m ih =>
    rw [List.range_succ, List.foldl_append, List.foldl_cons, List.foldl_nil, Vector.getElem_setIfInBounds]
    split
    · next last =>
      subst last
      have untouched := compaction_getElem sentinel reg m ⟨m + 1, hm⟩ (Nat.le_succ m)
      simpa [slotAt, hm] using untouched
    · exact ih (by omega) (by omega)

theorem Queue.pull_entries {q : Queue} (sentinel : Word) (bound : q.count ≤ 32) (nonempty : q.count ≠ 0) :
    q.entries = q.reg[0] :: (q.pull sentinel).entries := by
  have length := Queue.entries_length bound
  have pulledLength : (q.pull sentinel).entries.length = q.count - 1 := Queue.entries_length (by simp [Queue.pull]; omega)
  refine List.ext_getElem (by simp only [List.length_cons]; omega) fun n hn hn' => ?_
  rw [Queue.entries_getElem]
  cases n with
  | zero => rfl
  | succ n =>
    have kept : n < q.count - 1 := by omega
    rw [List.getElem_cons_succ, Queue.entries_getElem]
    have moved := compaction_moves_down sentinel q.reg (by omega) kept
    simpa [Queue.pull, Vector.getElem_setIfInBounds, kept.ne'] using moved.symm

/-- Settles O31: slot by slot, what follows the head moved down, and the vacated slot joins the free ones. -/
theorem queuePullRemovesHead : Obligations.QueuePullRemovesHead := by
  intro q sentinel ok nonempty
  exact ⟨Queue.pull_entries sentinel ok.1 nonempty, Nat.sub_one_add_one nonempty, Queue.pull_ok ok⟩

/-! ## The guard (R175) -/

/-- A channel signal in range sets its flag and asks the guard (R211). -/
theorem sigChannel_of_in_range {ch : Fin 16} (h : ch.val < 9) (recompute : State → State) (l : Bool) (s : State) :
    sigChannel recompute ch l s =
      if s.mbox.updateInProgress then setChannel ⟨ch.val, h⟩ l s else recompute (setChannel ⟨ch.val, h⟩ l s) :=
  dif_pos h

theorem unlessStopped_of_running {b : Block} {s : State} (running : stopped b s = false) (f : State → State) :
    unlessStopped b f s = f s := by
  simp [unlessStopped, running]

/-- Under the guard it does not matter which recompute a channel signal could start. -/
theorem sigChannel_of_guard {s : State} (guard : s.mbox.updateInProgress = true) (recompute recompute' : State → State)
    (ch : Fin 16) (l : Bool) : sigChannel recompute ch l s = sigChannel recompute' ch l s := by
  by_cases h : ch.val < 9
  · rw [sigChannel_of_in_range h, sigChannel_of_in_range h, if_pos guard, if_pos guard]
  · rw [sigChannel_of_out_of_range (Nat.not_lt.mp h), sigChannel_of_out_of_range (Nat.not_lt.mp h)]

/-- Settles O37: a running block's channel signal sets its flag and then branches on the guard; no other signal recomputes. -/
theorem guardSuppressesNestedRecompute : Obligations.GuardSuppressesNestedRecompute := by
  intro recompute s ch h l running
  have delivers : ∀ (recompute : State → State) (ch : Fin 16) (l : Bool),
      deliverSignal recompute (.channel ch l) s = sigChannel recompute ch l s :=
    fun _ _ _ => unlessStopped_of_running (by simp [running]) _
  refine ⟨fun guard => ?_, fun guard => ?_, fun sig guard => ?_⟩
  · rw [delivers, sigChannel_of_in_range h, if_pos guard]
  · rw [delivers, sigChannel_of_in_range h, if_neg (by simp [guard])]
  · cases sig with
    | localIrq | gpuIrq | gpuFiq => rfl
    | channel ch l => rw [deliverInDrain, delivers, delivers, sigChannel_of_guard guard]

/-! ## The interrupt line (R177) -/

theorem Mbox.irqLevel_eq_true (m : Mbox) : m.irqLevel = true ↔ m.rq.count ≠ 0 ∧ m.configIrqEn = true := by
  rw [Mbox.irqLevel, Bool.and_eq_true, bne_iff_ne]

/-- With no channel available a recompute only clears the guard and drives the line. -/
theorem mboxRecompute_no_channel {s : State} (running : s.mboxFatal = none) (noChannel : NoChannel s) :
    mboxRecompute s = { s with mbox := settledMbox s.mbox.rq s.mbox } := by
  have drained : drainLoop drainPasses (setGuard true s) = setGuard true s := drainLoop_no_channel drainPasses noChannel
  obtain ⟨stops, -⟩ | ⟨-, he⟩ := mboxRecompute_cases s
  · rw [drained] at stops
    exact absurd running stops
  · rw [he, drained]
    rfl

/-- Settles O39: every recompute that completes ends in the drive of the line, and without a channel the drain is empty. -/
theorem recomputeDrivesIrqLine : Obligations.RecomputeDrivesIrqLine := by
  intro s
  refine ⟨fun running => ?_, mboxRecompute_no_channel⟩
  obtain ⟨guard, line⟩ := mboxRecompute_settled s running
  exact ⟨guard, by rw [line, Mbox.irqLevel_eq_true]⟩

end Sys2Proof.Machine
end

section
/-! PROOFS. The drain read by read (R173, R174, R176): what one pass reads and pulls, and what the passes of a recompute add up to. -/

namespace Sys2Proof.Machine

/-! ## One read -/

/-- The read of a channel's payload cell in state `s`, as the history records it. -/
abbrev cellRead (ch : Channel) (s : State) : MboxAccess :=
  .read (payloadAddr ch.val) (nextAnswer (.read (payloadAddr ch.val)) s).value

/-- The state in which that read has returned, with its nested signals. -/
abbrev afterCellRead (ch : Channel) (s : State) : State := memAccess deliverInDrain (.read (payloadAddr ch.val)) s

/-- The words of some reads that a drain pulls: all but the sentinel (R173). -/
abbrev pulledWords (sentinel : Word) (reads : List MboxAccess) : List Word := (reads.map accessValue).filter (· != sentinel)

theorem pulledWords_append (sentinel : Word) (reads more : List MboxAccess) :
    pulledWords sentinel (reads ++ more) = pulledWords sentinel reads ++ pulledWords sentinel more := by
  simp [pulledWords]

theorem afterCellRead_frame (ch : Channel) (s : State) :
    (afterCellRead ch s).mboxHistory = s.mboxHistory ++ [cellRead ch s] ∧ (afterCellRead ch s).mbox.rq = s.mbox.rq ∧
      (afterCellRead ch s).platform = s.platform := by
  have frame := memAccess_drain_frame (.read (payloadAddr ch.val)) s
  rw [SignalFrame] at frame
  rw [afterCellRead, frame]
  exact ⟨rfl, rfl, rfl⟩

theorem pushRq_mboxHistory (v : Word) (s : State) : (pushRq v s).mboxHistory = s.mboxHistory := by
  unfold pushRq
  split <;> rfl

/-! ## One pass -/

/-- What a pass over `chs` from `s` with result `r` has to do with its `reads`: they are of payload cells of some of the channels, in their order; a pass that ended read no word unless the block stopped, and a pass that pulled queued the word of its last read, which alone was not the sentinel. -/
structure PassReads (chs : List Channel) (s : State) (reads : List MboxAccess) (r : Bool × State) : Prop where
  history : r.2.mboxHistory = s.mboxHistory ++ reads
  payload : ∀ x ∈ reads, IsPayloadRead x
  scanned : (reads.map accessAddr).Sublist (chs.map fun ch => payloadAddr ch.val)
  ended : r.1 = false → r.2.mbox.rq = s.mbox.rq ∧ (r.2.mboxFatal = none → pulledWords s.platform.sentinel reads = [])
  pulled : r.1 = true → ∃ passed x, reads = passed ++ [x] ∧ pulledWords s.platform.sentinel passed = [] ∧
    accessValue x ≠ s.platform.sentinel ∧
    (s.mbox.rq.count < 32 → r.2.mbox.rq = s.mbox.rq.push (accessValue x) ∧ r.2.mboxFatal = none)

namespace PassReads

variable {chs rest : List Channel} {ch : Channel} {s : State} {reads : List MboxAccess} {r : Bool × State}

/-- No channel is left. -/
theorem exhausted (s : State) : PassReads [] s [] (false, s) where
  history := (List.append_nil _).symm
  payload _ h := (List.not_mem_nil h).elim
  scanned := List.Sublist.refl _
  ended _ := ⟨rfl, fun _ => rfl⟩
  pulled h := by cases h

/-- The channel is not available. -/
theorem skip (h : PassReads rest s reads r) : PassReads (ch :: rest) s reads r :=
  { h with scanned := h.scanned.cons _ }

/-- The read stopped the block. -/
theorem stop (stops : (afterCellRead ch s).mboxFatal ≠ none) :
    PassReads (ch :: rest) s [cellRead ch s] (false, afterCellRead ch s) where
  history := (afterCellRead_frame ch s).1
  payload := List.forall_mem_singleton.mpr ⟨ch, _, rfl⟩
  scanned := List.singleton_sublist.mpr (List.mem_cons_self ..)
  ended _ := ⟨(afterCellRead_frame ch s).2.1, fun running => absurd running stops⟩
  pulled h := by cases h

/-- The read returned a word that is not the sentinel. -/
theorem pull (running : (afterCellRead ch s).mboxFatal = none) (word : accessValue (cellRead ch s) ≠ s.platform.sentinel) :
    PassReads (ch :: rest) s [cellRead ch s] (true, pushRq (accessValue (cellRead ch s)) (afterCellRead ch s)) where
  history := (pushRq_mboxHistory ..).trans (afterCellRead_frame ch s).1
  payload := List.forall_mem_singleton.mpr ⟨ch, _, rfl⟩
  scanned := List.singleton_sublist.mpr (List.mem_cons_self ..)
  ended h := by cases h
  pulled _ := by
    refine ⟨[], _, rfl, rfl, word, fun room => ?_⟩
    obtain ⟨-, rq, -⟩ := afterCellRead_frame ch s
    rw [pushRq_of_room (by rwa [rq]), rq]
    exact ⟨rfl, running⟩

/-- The read returned the sentinel, and the scan went on. -/
theorem goOn (sentinel : accessValue (cellRead ch s) = s.platform.sentinel) (h : PassReads rest (afterCellRead ch s) reads r) :
    PassReads (ch :: rest) s (cellRead ch s :: reads) r := by
  obtain ⟨history, rq, platform⟩ := afterCellRead_frame ch s
  obtain ⟨historyRest, payload, scanned, ended, pulled⟩ := h
  rw [history, List.append_assoc] at historyRest
  rw [rq, platform] at ended pulled
  have noWord : ∀ more, pulledWords s.platform.sentinel (cellRead ch s :: more) = pulledWords s.platform.sentinel more := by
    intro more
    simp only [pulledWords, List.map_cons, sentinel]
    simp
  refine ⟨historyRest, List.forall_mem_cons.mpr ⟨⟨ch, _, rfl⟩, payload⟩, scanned.cons_cons _, fun e => ?_, fun p => ?_⟩
  · rw [noWord]
    exact ended e
  · obtain ⟨passed, x, rfl, sentinels, word⟩ := pulled p
    exact ⟨cellRead ch s :: passed, x, rfl, (noWord passed).trans sentinels, word⟩

end PassReads

/-- Every pass has its reads: one case for each way it can go on at a channel. -/
theorem drainScan_reads (chs : List Channel) (s : State) : ∃ reads, PassReads chs s reads (drainScan chs s) := by
  induction chs generalizing s with
  | nil =>
    exact ⟨[], PassReads.exhausted s⟩
  | cons ch rest ih =>
    cases available : s.mbox.channelAvailable[ch] with
    | false =>
      obtain ⟨reads, h⟩ := ih s
      rw [drainScan_unavailable rest available]
      exact ⟨reads, h.skip⟩
    | true =>
      obtain ⟨stops, he⟩ | ⟨running, word, he⟩ | ⟨-, sentinel, he⟩ := drainScan_available rest available
      · rw [he]
        exact ⟨_, PassReads.stop stops⟩
      · rw [he]
        exact ⟨_, PassReads.pull running word⟩
      · obtain ⟨reads, h⟩ := ih (afterCellRead ch s)
        rw [he]
        exact ⟨_, h.goOn sentinel⟩

/-- A scan that comes to an available channel reads its cell next. -/
theorem drainScan_available_reads {ch : Channel} (rest : List Channel) {s : State} (h : s.mbox.channelAvailable[ch] = true) :
    ∃ reads, (drainScan (ch :: rest) s).2.mboxHistory = s.mboxHistory ++ cellRead ch s :: reads := by
  obtain ⟨history, -, -⟩ := afterCellRead_frame ch s
  obtain ⟨-, he⟩ | ⟨-, -, he⟩ | ⟨-, -, he⟩ := drainScan_available rest h
  · exact ⟨[], by rw [he]; exact history⟩
  · exact ⟨[], by rw [he]; exact (pushRq_mboxHistory ..).trans history⟩
  · obtain ⟨reads, more⟩ := drainScan_reads rest (afterCellRead ch s)
    exact ⟨reads, by rw [he, more.history, history, List.append_assoc, List.singleton_append]⟩

/-- The scan passes over channels that are not available (R173). -/
theorem drainScan_skips {low : List Channel} (rest : List Channel) {s : State}
    (h : ∀ ch ∈ low, s.mbox.channelAvailable[ch] = false) : drainScan (low ++ rest) s = drainScan rest s := by
  induction low with
  | nil => rfl
  | cons ch low ih =>
    obtain ⟨unavailable, others⟩ := List.forall_mem_cons.mp h
    rw [List.cons_append, drainScan_unavailable _ unavailable, ih others]

/-- The nine channels around one of them, those below it first. -/
theorem allChannels_around : ∀ ch : Channel,
    allChannels = allChannels.take ch.val ++ ch :: allChannels.drop (ch.val + 1) ∧ ∀ b ∈ allChannels.take ch.val, b.val < ch.val := by
  decide

/-- A pass reads the lowest available channel first (R174). -/
theorem drainScan_lowest {ch : Channel} {s : State} (lowest : LowestAvailable s ch) :
    ∃ reads, (drainScan allChannels s).2.mboxHistory = s.mboxHistory ++ cellRead ch s :: reads := by
  obtain ⟨available, below⟩ := lowest
  obtain ⟨around, low⟩ := allChannels_around ch
  rw [around, drainScan_skips _ fun b hb => below b (low b hb)]
  exact drainScan_available_reads _ available

/-- After the reads `pre` of the scan of `chs` from `s`, the read `x` is made at an available channel, from where the rest of the scan is that of a suffix. -/
abbrev ReadMade (chs : List Channel) (s : State) (pre : List MboxAccess) (x : MboxAccess) : Prop :=
  ∃ (ch : Channel) (above : List Channel) (u : State) (v : Word), ch :: above <:+ chs ∧
    drainScan chs s = drainScan (ch :: above) u ∧ u.mboxHistory = s.mboxHistory ++ pre ∧
    u.mbox.channelAvailable[ch] = true ∧ x = .read (payloadAddr ch.val) v

section
variable {ch : Channel} {rest : List Channel} {s : State} {pre : List MboxAccess} {x : MboxAccess}

theorem readMade_first (available : s.mbox.channelAvailable[ch] = true) : ReadMade (ch :: rest) s [] (cellRead ch s) :=
  ⟨ch, rest, s, _, List.suffix_rfl, rfl, (List.append_nil _).symm, available, rfl⟩

/-- A read of the rest of a scan is a read of the scan that went on there. -/
theorem readMade_later {u : State} {before : List MboxAccess} (goesOn : drainScan (ch :: rest) s = drainScan rest u)
    (history : u.mboxHistory = s.mboxHistory ++ before) (h : ReadMade rest u pre x) : ReadMade (ch :: rest) s (before ++ pre) x := by
  obtain ⟨c, above, w, v, suffix, scan, historyAt, made⟩ := h
  refine ⟨c, above, w, v, suffix.trans (List.suffix_cons ..), goesOn.trans scan, ?_, made⟩
  rw [historyAt, history, List.append_assoc]

end

/-- What holds of a list's head and of each later element holds of each element, with what stands before it. -/
theorem forall_split_cons {α : Type} {P : List α → α → Prop} {a : α} {l : List α} (head : P [] a)
    (tail : ∀ pre x post, l = pre ++ x :: post → P (a :: pre) x) (pre : List α) (x : α) (post : List α)
    (h : a :: l = pre ++ x :: post) : P pre x := by
  cases pre with
  | nil =>
    obtain ⟨rfl, -⟩ := List.cons.inj h
    exact head
  | cons b pre =>
    obtain ⟨rfl, split⟩ := List.cons.inj h
    exact tail pre x post split

/-- Each read of a pass is made at a channel whose flag is 1 when the scan reaches it (R173). -/
theorem drainScan_reads_made (chs : List Channel) (s : State) :
    ∃ reads, (drainScan chs s).2.mboxHistory = s.mboxHistory ++ reads ∧
      ∀ pre x post, reads = pre ++ x :: post → ReadMade chs s pre x := by
  induction chs generalizing s with
  | nil => exact ⟨[], (List.append_nil _).symm, fun pre x post h => by simp at h⟩
  | cons ch rest ih =>
    cases available : s.mbox.channelAvailable[ch] with
    | false =>
      have goesOn := drainScan_unavailable rest available
      obtain ⟨reads, history, made⟩ := ih s
      refine ⟨reads, by rw [goesOn, history], fun pre x post h => ?_⟩
      exact readMade_later goesOn (List.append_nil _).symm (made pre x post h)
    | true =>
      obtain ⟨history, -, -⟩ := afterCellRead_frame ch s
      have only := forall_split_cons (l := []) (readMade_first (rest := rest) available) fun _ _ _ h => by simp at h
      obtain ⟨-, he⟩ | ⟨-, -, he⟩ | ⟨-, -, goesOn⟩ := drainScan_available rest available
      · exact ⟨[cellRead ch s], by rw [he]; exact history, only⟩
      · exact ⟨[cellRead ch s], by rw [he]; exact (pushRq_mboxHistory ..).trans history, only⟩
      · obtain ⟨reads, historyRest, made⟩ := ih (afterCellRead ch s)
        refine ⟨cellRead ch s :: reads, by rw [goesOn, historyRest, history, List.append_assoc, List.singleton_append], ?_⟩
        exact forall_split_cons (readMade_first available) fun pre x post h =>
          readMade_later goesOn history (made pre x post h)

/-! ## The passes -/

section
variable (n : Nat) {s t : State}

/-- With the queue full there is no pass. -/
theorem drainLoop_of_full (full : s.mbox.rq.count = 32) : drainLoop n s = s := by
  cases n with
  | zero => rfl
  | succ n => simp [drainLoop, Queue.isFull, full]

/-- A pass that pulled is followed by another. -/
theorem drainLoop_of_pulled (notFull : s.mbox.rq.count ≠ 32) (scan : drainScan allChannels s = (true, t))
    (running : t.mboxFatal = none) : drainLoop (n + 1) s = drainLoop n t := by
  simp [drainLoop, Queue.isFull, notFull, scan, running]

/-- A pass that pulled nothing or stopped the block is the last. -/
theorem drainLoop_of_ended {pulled : Bool} (notFull : s.mbox.rq.count ≠ 32) (scan : drainScan allChannels s = (pulled, t))
    (ends : pulled = true → t.mboxFatal ≠ none) : drainLoop (n + 1) s = t := by
  cases pulled with
  | false => simp [drainLoop, Queue.isFull, notFull, scan]
  | true => simp [drainLoop, Queue.isFull, notFull, scan, Option.isSome_iff_ne_none.mpr (ends rfl)]

/-- Everything the drain can begin with: the queue is full, the first pass is the last, or it pulled and the others follow (R173). -/
theorem drain_cases (s : State) :
    s.mbox.rq.count = 32 ∨
    (s.mbox.rq.count ≠ 32 ∧ ∃ pulled t, drainScan allChannels s = (pulled, t) ∧ (pulled = true → t.mboxFatal ≠ none)) ∨
    (s.mbox.rq.count ≠ 32 ∧ ∃ t, drainScan allChannels s = (true, t) ∧ t.mboxFatal = none) := by
  by_cases full : s.mbox.rq.count = 32
  · exact .inl full
  · obtain ⟨⟨pulled, t⟩, scan⟩ : ∃ r, drainScan allChannels s = r := ⟨_, rfl⟩
    by_cases ends : pulled = true → t.mboxFatal ≠ none
    · exact .inr (.inl ⟨full, pulled, t, scan, ends⟩)
    · obtain ⟨rfl, running⟩ : pulled = true ∧ t.mboxFatal = none := by simpa using ends
      exact .inr (.inr ⟨full, t, scan, running⟩)

end

/-- A read that returned the sentinel is followed by that of a higher cell only (R174). -/
abbrev AscendsAfterSentinel (sentinel : Word) (x y : MboxAccess) : Prop := accessValue x = sentinel → accessAddr x < accessAddr y

/-- What at most `n` passes from `s` to `t` have to do with their `reads`. -/
structure DrainReads (n : Nat) (s : State) (reads : List MboxAccess) (t : State) : Prop where
  history : t.mboxHistory = s.mboxHistory ++ reads
  payload : ∀ x ∈ reads, IsPayloadRead x
  bound : reads.length ≤ 9 * n
  ascends : reads.IsChain (AscendsAfterSentinel s.platform.sentinel)
  count : s.mbox.rq.count ≤ 32 → s.mbox.rq.count ≤ t.mbox.rq.count ∧ t.mbox.rq.count ≤ 32
  queued : s.mbox.rq.count ≤ 32 → t.mboxFatal = none →
    t.mbox.rq.entries = s.mbox.rq.entries ++ pulledWords s.platform.sentinel reads

theorem DrainReads.refl (n : Nat) (s : State) : DrainReads n s [] s where
  history := (List.append_nil _).symm
  payload _ h := (List.not_mem_nil h).elim
  bound := Nat.zero_le _
  ascends := List.isChain_nil
  count bound := ⟨Nat.le_refl _, bound⟩
  queued _ _ := (List.append_nil _).symm

/-- The payload cells lie in the channels' order. -/
theorem allChannels_cells_ascend : (allChannels.map fun ch => payloadAddr ch.val).Pairwise (· < ·) := by
  decide

namespace PassReads

variable {s : State} {reads : List MboxAccess} {r : Bool × State}

theorem length_le (h : PassReads allChannels s reads r) : reads.length ≤ 9 := by
  simpa using h.scanned.length_le

/-- Within a pass every read is of a higher cell than those before it. -/
theorem ascends (h : PassReads allChannels s reads r) : reads.IsChain (AscendsAfterSentinel s.platform.sentinel) := by
  have sorted := List.pairwise_map.mp (allChannels_cells_ascend.sublist h.scanned)
  exact (sorted.imp (S := AscendsAfterSentinel s.platform.sentinel) fun lt _ => lt).isChain

/-- A pass that pulled queued the one word it read that is not the sentinel. -/
theorem queued (h : PassReads allChannels s reads r) (pulled : r.1 = true) (room : s.mbox.rq.count < 32) :
    r.2.mboxFatal = none ∧ r.2.mbox.rq.count = s.mbox.rq.count + 1 ∧
      r.2.mbox.rq.entries = s.mbox.rq.entries ++ pulledWords s.platform.sentinel reads := by
  obtain ⟨passed, x, rfl, sentinels, word, push⟩ := h.pulled pulled
  obtain ⟨rq, running⟩ := push room
  refine ⟨running, by rw [rq]; rfl, ?_⟩
  rw [rq, Queue.push_entries _ room, pulledWords_append, sentinels]
  simp [pulledWords, word]

/-- A pass after which the drain ends: it pulled nothing, as pulling with room in the queue does not stop the block. -/
theorem last (h : PassReads allChannels s reads r) (notFull : s.mbox.rq.count ≠ 32) (stops : r.1 = true → r.2.mboxFatal ≠ none)
    (n : Nat) : DrainReads (n + 1) s reads r.2 := by
  have pulledNothing : s.mbox.rq.count ≤ 32 → r.2.mbox.rq = s.mbox.rq ∧
      (r.2.mboxFatal = none → pulledWords s.platform.sentinel reads = []) := by
    intro bound
    refine h.ended (Bool.eq_false_iff.mpr fun pulled => ?_)
    obtain ⟨running, -⟩ := h.queued pulled (by omega)
    exact stops pulled running
  refine ⟨h.history, h.payload, by have := h.length_le; omega, h.ascends, fun bound => ?_, fun bound running => ?_⟩
  · obtain ⟨rq, -⟩ := pulledNothing bound
    rw [rq]
    exact ⟨Nat.le_refl _, bound⟩
  · obtain ⟨rq, noWord⟩ := pulledNothing bound
    rw [rq, noWord running, List.append_nil]

/-- A pass that pulled and the passes after it. -/
theorem again {n : Nat} {u : State} {more : List MboxAccess} (h : PassReads allChannels s reads r) (pulled : r.1 = true)
    (notFull : s.mbox.rq.count ≠ 32) (platform : r.2.platform = s.platform) (rest : DrainReads n r.2 more u) :
    DrainReads (n + 1) s (reads ++ more) u where
  history := by rw [rest.history, h.history, List.append_assoc]
  payload := List.forall_mem_append.mpr ⟨h.payload, rest.payload⟩
  bound := by
    have := h.length_le
    have := rest.bound
    rw [List.length_append]
    omega
  ascends := by
    refine List.isChain_append.mpr ⟨h.ascends, platform ▸ rest.ascends, fun x lastRead _ _ sentinel => ?_⟩
    obtain ⟨passed, y, rfl, -, word, -⟩ := h.pulled pulled
    obtain rfl : y = x := by simpa using lastRead
    exact absurd sentinel word
  count bound := by
    obtain ⟨-, count, -⟩ := h.queued pulled (by omega)
    have := rest.count (by omega)
    omega
  queued bound running := by
    obtain ⟨-, count, entries⟩ := h.queued pulled (by omega)
    rw [rest.queued (by omega) running, entries, platform, List.append_assoc, pulledWords_append]

end PassReads

theorem drainScan_platform (chs : List Channel) (s : State) : (drainScan chs s).2.platform = s.platform := by
  have frame := drainScan_frame chs s
  rw [DrainFrame] at frame
  rw [frame]

/-- Every drain has its reads: those of its passes, one after the other. -/
theorem drainLoop_reads (n : Nat) (s : State) : ∃ reads, DrainReads n s reads (drainLoop n s) := by
  induction n generalizing s with
  | zero => exact ⟨[], DrainReads.refl 0 s⟩
  | succ n ih =>
    obtain ⟨reads, pass⟩ := drainScan_reads allChannels s
    obtain full | ⟨notFull, pulled, t, scan, ends⟩ | ⟨notFull, t, scan, running⟩ := drain_cases s
    · rw [drainLoop_of_full _ full]
      exact ⟨[], DrainReads.refl _ s⟩
    · rw [drainLoop_of_ended n notFull scan ends]
      rw [scan] at pass
      exact ⟨reads, pass.last notFull ends n⟩
    · have platform := drainScan_platform allChannels s
      rw [drainLoop_of_pulled n notFull scan running]
      rw [scan] at pass platform
      obtain ⟨more, rest⟩ := ih t
      exact ⟨reads ++ more, pass.again rfl notFull platform rest⟩

/-- A pass that pulls fills one slot. -/
theorem drainScan_pulled_count {s t : State} (room : s.mbox.rq.count < 32) (scan : drainScan allChannels s = (true, t)) :
    t.mbox.rq.count = s.mbox.rq.count + 1 := by
  obtain ⟨reads, pass⟩ := drainScan_reads allChannels s
  rw [scan] at pass
  obtain ⟨-, count, -⟩ := pass.queued rfl room
  exact count

/-- With more passes left than free slots, one more changes nothing: each pass but the last fills a slot (R176). -/
theorem drainLoop_succ {n : Nat} {s : State} (bound : s.mbox.rq.count ≤ 32) (enough : 32 < n + s.mbox.rq.count) :
    drainLoop (n + 1) s = drainLoop n s := by
  induction n generalizing s with
  | zero => omega
  | succ n ih =>
    obtain full | ⟨notFull, pulled, t, scan, ends⟩ | ⟨notFull, t, scan, running⟩ := drain_cases s
    · rw [drainLoop_of_full _ full, drainLoop_of_full _ full]
    · rw [drainLoop_of_ended _ notFull scan ends, drainLoop_of_ended _ notFull scan ends]
    · rw [drainLoop_of_pulled _ notFull scan running, drainLoop_of_pulled _ notFull scan running]
      have count := drainScan_pulled_count (by omega) scan
      exact ih (by omega) (by omega)

/-- The drain's first read is of the lowest available channel (R174). -/
theorem drainLoop_lowest (n : Nat) {s : State} {ch : Channel} (notFull : s.mbox.rq.count ≠ 32) (lowest : LowestAvailable s ch) :
    ∃ reads, (drainLoop (n + 1) s).mboxHistory = s.mboxHistory ++ cellRead ch s :: reads := by
  obtain ⟨reads, history⟩ := drainScan_lowest lowest
  obtain full | ⟨-, pulled, t, scan, ends⟩ | ⟨-, t, scan, running⟩ := drain_cases s
  · exact absurd full notFull
  · rw [scan] at history
    rw [drainLoop_of_ended n notFull scan ends]
    exact ⟨reads, history⟩
  · rw [scan] at history
    rw [drainLoop_of_pulled n notFull scan running]
    obtain ⟨more, rest⟩ := drainLoop_reads n t
    exact ⟨reads ++ more, by rw [rest.history, history, List.append_assoc, List.cons_append]⟩

/-! ## The recompute -/

/-- A recompute's reads and queue are those of its drain. -/
theorem mboxRecompute_drain (s : State) :
    let d := drainLoop drainPasses (setGuard true s)
    (mboxRecompute s).mboxHistory = d.mboxHistory ∧ (mboxRecompute s).mbox.rq = d.mbox.rq ∧ (mboxRecompute s).mboxFatal = d.mboxFatal := by
  obtain ⟨-, he⟩ | ⟨-, he⟩ := mboxRecompute_cases s
  · rw [he]
    exact ⟨rfl, rfl, rfl⟩
  · rw [he]
    exact ⟨rfl, rfl, rfl⟩

theorem mboxRecompute_reads (s : State) : ∃ reads, DrainReads drainPasses s reads (mboxRecompute s) := by
  obtain ⟨reads, history, payload, bound, ascends, count, queued⟩ := drainLoop_reads drainPasses (setGuard true s)
  obtain ⟨sameHistory, rq, fatal⟩ := mboxRecompute_drain s
  rw [← sameHistory] at history
  rw [← rq] at count queued
  rw [← fatal] at queued
  exact ⟨reads, history, payload, bound, ascends, count, queued⟩

/-- Settles O33: each pass but the last fills a slot, a pass makes at most nine reads, and with the queue full there is no pass. -/
theorem recomputeTerminates : Obligations.RecomputeTerminates := by
  intro s bound
  obtain ⟨reads, h⟩ := mboxRecompute_reads s
  refine ⟨fun n => ?_, ?_, h.count bound⟩
  · induction n with
    | zero => rfl
    | succ n ih =>
      have enough : 32 < drainPasses + n + s.mbox.rq.count := by
        unfold drainPasses
        omega
      exact (drainLoop_succ (s := setGuard true s) bound enough).trans ih
  · rw [h.history, List.length_append]
    exact Nat.add_le_add_left h.bound _

/-- Settles O34: each pulling pass queues the one word it read that is not the sentinel, and the last pass reads none. -/
theorem drainPullsWhatItReads : Obligations.DrainPullsWhatItReads := by
  intro s ⟨bound, _⟩ running
  obtain ⟨reads, h⟩ := mboxRecompute_reads s
  refine ⟨rfl, reads, h.history, h.payload, h.queued bound running, fun notFull ch lowest => ?_⟩
  obtain ⟨rest, first⟩ := drainLoop_lowest 32 (s := setGuard true s) notFull lowest
  obtain ⟨history, -, -⟩ := mboxRecompute_drain s
  rw [h.history] at history
  exact ⟨_, rest, List.append_cancel_left (history.trans first)⟩

/-- Settles O35: within a pass the cells ascend, and the last read of a pass that pulled was not of the sentinel. -/
theorem scanAscendsUntilPull : Obligations.ScanAscendsUntilPull := by
  refine ⟨fun s => ?_, drainScan_reads_made⟩
  obtain ⟨reads, h⟩ := mboxRecompute_reads s
  refine ⟨reads, h.history, fun pre x y post split => ?_⟩
  exact List.isChain_iff_forall_rel_of_append_cons_cons.mp h.ascends split

/-- Settles O36: the lowest available channel is where the first pass stops to read. -/
theorem passStartsAtLowestAvailable : Obligations.PassStartsAtLowestAvailable := by
  intro n s ch notFull lowest
  obtain ⟨reads, first⟩ := drainLoop_lowest n notFull lowest
  exact ⟨⟨_, reads, first⟩, fun t scan running => drainLoop_of_pulled n notFull scan running⟩

end Sys2Proof.Machine
end

section
/-! PROOFS. The mailbox block's registers and its channel signal (R200 to R211). -/

namespace Sys2Proof.Machine

/-! ## A mailbox event of a running block -/

/-- A running mailbox block completes its event with the event's effect (R233). -/
theorem exec_mbox_of_running {i : Instr} (hb : eventBlock i = some .mbox) {s : State} (running : s.mboxFatal = none) :
    exec i s = .next (effect i { s with rdata := none }) := by
  rw [exec_eq hb, onEvent_next]
  simp [running]

/-- A block that runs after the rest of its event ran before it, and that rest was done (R233). -/
theorem unlessStopped_running {f : State → State} {s : State} (running : (unlessStopped .mbox f s).mboxFatal = none) :
    s.mboxFatal = none ∧ unlessStopped .mbox f s = f s := by
  obtain ⟨stops, he⟩ | ⟨runs, he⟩ := unlessStopped_cases s .mbox f
  · rw [he] at running
    simp [running] at stops
  · exact ⟨by simpa using runs, he⟩

/-! ## Accesses that change nothing but the log (R203, R205, R208 to R210) -/

theorem Queue.status_toNat (q : Queue) :
    q.status.toNat = if q.count = 32 then 0x80000000 else if q.count = 0 then 0x40000000 else 0 := by
  by_cases full : q.count = 32
  · simp [Queue.status, Queue.isFull, Queue.isEmpty, full]
  · by_cases empty : q.count = 0 <;> simp [Queue.status, Queue.isFull, Queue.isEmpty, full, empty]

/-- Settles O43: a status read is a reply of the queue's status word and no more. -/
theorem statusReadsChangeNothing : Obligations.StatusReadsChangeNothing := by
  intro s running
  exact ⟨⟨_, exec_mbox_of_running rfl running, s.mbox.rq.status_toNat⟩, ⟨_, exec_mbox_of_running rfl running, s.mbox.wq.status_toNat⟩⟩

/-- Settles O48: the effect of each access is its record and, at a read, the reply of 0. -/
theorem mboxBadAccessesOnlyLog : Obligations.MboxBadAccessesOnlyLog := by
  intro s off w size running
  exact ⟨exec_mbox_of_running rfl running, exec_mbox_of_running rfl running, exec_mbox_of_running rfl running,
    exec_mbox_of_running rfl running⟩

/-! ## What a recompute keeps (R173) -/

namespace RecomputeFrame

variable {s t : State} (h : RecomputeFrame s t)
include h

theorem wq : t.mbox.wq = s.mbox.wq := congrArg (·.mbox.wq) h

theorem configIrqEn : t.mbox.configIrqEn = s.mbox.configIrqEn := congrArg (·.mbox.configIrqEn) h

theorem diagLog : t.diagLog = s.diagLog := congrArg (·.diagLog) h

theorem rdata : t.rdata = s.rdata := congrArg (·.rdata) h

end RecomputeFrame

/-! ## Reads that recompute (R200 to R202, R204) -/

/-- A read that recomputes and does not stop its block returns its value and drains (R200 to R204). -/
theorem recomputeThenReply_drained {v : Word} {s : State} (ok : s.mbox.rq.Ok s.platform.sentinel)
    (running : (recomputeThenReply v s).mboxFatal = none) :
    (recomputeThenReply v s).rdata = some v ∧ Drained s (recomputeThenReply v s) := by
  obtain ⟨recomputed, replied⟩ := unlessStopped_running running
  obtain ⟨-, drained⟩ := drainPullsWhatItReads s ok recomputed
  rw [recomputeThenReply, replied]
  exact ⟨rfl, rfl, drained⟩

/-- With no channel available such a read only clears the guard, drives the line and returns its value. -/
theorem recomputeThenReply_no_channel (v : Word) {s : State} (running : s.mboxFatal = none) (noChannel : NoChannel s) :
    recomputeThenReply v s = { s with mbox := settledMbox s.mbox.rq s.mbox, rdata := some v } := by
  rw [recomputeThenReply, mboxRecompute_no_channel running noChannel, unlessStopped_of_running (by simp [running])]
  rfl

/-- Settles O41: the effect of each of the three reads is a recompute and the reply of the value it is given before it. -/
theorem drainingReadsResult : Obligations.DrainingReadsResult := by
  intro s i v running ok read
  have replies : eventBlock i = some .mbox ∧ effect i { s with rdata := none } = recomputeThenReply v { s with rdata := none } := by
    obtain ⟨rfl, rfl⟩ | ⟨rfl, rfl⟩ | ⟨rfl, rfl⟩ := read <;> exact ⟨rfl, rfl⟩
  obtain ⟨block, he⟩ := replies
  exact ⟨_, (exec_mbox_of_running block running).trans (congrArg _ he), recomputeThenReply_drained ok,
    fun noChannel => recomputeThenReply_no_channel v running noChannel⟩

/-- What a POP leaves of a queue before the recompute: its tail, or the empty queue as it was (R200). -/
def Queue.popped (sentinel : Word) (q : Queue) : Queue := if q.count = 0 then q else q.pull sentinel

/-- The value of a POP: the head, or the sentinel of an empty queue (R200). -/
def Queue.popValue (sentinel : Word) (q : Queue) : Word := if q.count = 0 then sentinel else q.reg[0]

theorem popEffect_eq (s : State) :
    popEffect s = recomputeThenReply (s.mbox.rq.popValue s.platform.sentinel)
      { s with mbox := { s.mbox with rq := s.mbox.rq.popped s.platform.sentinel } } := by
  unfold popEffect Queue.popped Queue.popValue
  by_cases empty : s.mbox.rq.count = 0
  · simp [Queue.isEmpty, empty]
  · simp [Queue.isEmpty, empty, pullRq_of_entry empty]

theorem popEffect_returns {s : State} (running : (popEffect s).mboxFatal = none) :
    (popEffect s).rdata = some (s.mbox.rq.popValue s.platform.sentinel) := by
  rw [popEffect_eq] at running ⊢
  exact recomputeThenReply_returns running

theorem Queue.popped_count (sentinel : Word) (q : Queue) : (q.popped sentinel).count = q.count - 1 := by
  unfold Queue.popped
  split
  · omega
  · rfl

theorem Queue.popped_ok {sentinel : Word} {q : Queue} (ok : q.Ok sentinel) : (q.popped sentinel).Ok sentinel := by
  unfold Queue.popped
  split
  · exact ok
  · exact Queue.pull_ok ok

theorem Queue.popped_entries (sentinel : Word) {q : Queue} (bound : q.count ≤ 32) : (q.popped sentinel).entries = q.entries.tail := by
  unfold Queue.popped
  split
  · next empty => simp [Queue.entries, empty]
  · next nonempty => rw [Queue.pull_entries sentinel bound nonempty, List.tail_cons]

/-- Settles O40: a POP is a reply around the recompute of the state with the head taken off. -/
theorem rdPopResult : Obligations.RdPopResult := by
  intro s r running ok
  have ok' := Queue.popped_ok ok
  exact ⟨_, s.mbox.rq.popped s.platform.sentinel, (exec_mbox_of_running rfl running).trans (congrArg _ (popEffect_eq _)),
    Queue.popped_entries _ ok.1, Queue.popped_count .., ok', recomputeThenReply_drained ok',
    fun noChannel => recomputeThenReply_no_channel _ running noChannel⟩

/-- A queue that keeps its first entry and is not empty keeps its head slot. -/
theorem Queue.head_eq_of_entries_prefix {q q' : Queue} (nonempty : q.count ≠ 0) (bound : q.count ≤ 32) (bound' : q'.count ≤ 32)
    (h : q.entries <+: q'.entries) : q'.count ≠ 0 ∧ q'.reg[0] = q.reg[0] := by
  have longer := h.length_le
  rw [Queue.entries_length bound, Queue.entries_length bound'] at longer
  have nonempty' : q'.count ≠ 0 := by omega
  rw [Queue.pull_entries 0#32 bound nonempty, Queue.pull_entries 0#32 bound' nonempty', List.cons_prefix_cons] at h
  exact ⟨nonempty', h.1.symm⟩

/-- Settles O42: the drain of the PEEK queues behind the head, so that the POP finds the same head. -/
theorem peekThenPopAgree : Obligations.PeekThenPopAgree := by
  intro s t u r inv nonempty peek running pop running'
  obtain ⟨-, ⟨bound', -⟩, -, -⟩ := exec_inv inv peek
  obtain ⟨-, ok, -, -⟩ := inv
  obtain ⟨-, -, -, rfl⟩ := exec_next peek
  obtain ⟨-, -, -, rfl⟩ := exec_next pop
  obtain ⟨value, -, reads, -, -, queued, -⟩ := recomputeThenReply_drained (s := { s with rdata := none }) ok running
  obtain ⟨nonempty', head⟩ := Queue.head_eq_of_entries_prefix nonempty ok.1 bound' ⟨_, queued.symm⟩
  have popValue := popEffect_returns running'
  rw [Queue.popValue, if_neg nonempty'] at popValue
  exact ⟨value, popValue.trans ((congrArg some head).trans value.symm)⟩

/-! ## The enable and the channel flags (R206, R211) -/

/-- Settles O44: the recompute keeps the enable that was written and ends in the drive of the line. -/
theorem wrConfigResult : Obligations.WrConfigResult := by
  intro s w running ok
  refine ⟨_, exec_mbox_of_running rfl running, fun running' => ?_,
    fun noChannel => mboxRecompute_no_channel running noChannel⟩
  have frame := mboxRecompute_frame { s with mbox := { s.mbox with configIrqEn := w.getLsbD 0 }, rdata := none }
  obtain ⟨-, line⟩ := mboxRecompute_settled _ running'
  refine ⟨frame.configIrqEn, frame.rdata, line.trans ?_, drainPullsWhatItReads _ ok running'⟩
  exact congrArg (_ && ·) frame.configIrqEn

/-- Settles O49: with the guard 0 the signal's effect is the recompute of the state with the flag set. -/
theorem sigChannelResult : Obligations.SigChannelResult := by
  intro s ch h l running ok guard
  have recomputes : effect (.sigChannelAvailable ch l) { s with rdata := none } =
      mboxRecompute { setChannel ⟨ch.val, h⟩ l s with rdata := none } :=
    (sigChannel_of_in_range h ..).trans (if_neg (by simp [guard]))
  refine ⟨_, (exec_mbox_of_running rfl running).trans (congrArg _ recomputes), fun running' => ?_,
    fun noChannel => mboxRecompute_no_channel running noChannel⟩
  exact ⟨(mboxRecompute_frame _).wq, (mboxRecompute_frame _).rdata, drainPullsWhatItReads _ ok running'⟩

/-! ## Pushes (R207) -/

theorem pushChannelField_eq (w : Word) : pushChannelField w = w.toNat % 16 := by
  simp [pushChannelField]

/-- A push that is dropped leaves its record, of a full queue before that of a channel, and recomputes. -/
theorem pushEffect_of_dropped (r : Fin 4) {w : Word} {s : State} (running : s.mboxFatal = none)
    (dropped : s.mbox.wq.count = 32 ∨ 9 ≤ w.toNat % 16) :
    pushEffect r w s = mboxRecompute
      (logDiag .mbox (if s.mbox.wq.count = 32 then .mboxWqFull else .mboxInvalidChannel) (pushOffset r) w s) := by
  unfold pushEffect
  by_cases full : s.mbox.wq.count = 32
  · rw [if_pos (by simp [Queue.isFull, full]), if_pos full, unlessStopped_of_running (by simp [running])]
  · have invalid : 8 < pushChannelField w := by rw [pushChannelField_eq]; omega
    rw [if_neg (by simp [Queue.isFull, full]), if_pos invalid, if_neg full, unlessStopped_of_running (by simp [running])]

/-- A push that is not dropped goes to its channel and recomputes unless it stopped the block. -/
theorem pushEffect_of_accepted (r : Fin 4) {w : Word} {s : State} (room : s.mbox.wq.count < 32) (valid : w.toNat % 16 ≤ 8) :
    pushEffect r w s = unlessStopped .mbox mboxRecompute (pushToChannel w s) := by
  have valid' : ¬8 < pushChannelField w := by rw [pushChannelField_eq]; omega
  rw [pushEffect, if_neg (by simp [Queue.isFull, room.ne]), if_neg valid']

/-- Settles O45: the state that the push recomputes differs from the one before by its record only. -/
theorem droppedPushOnlyLogsAndDrains : Obligations.DroppedPushOnlyLogsAndDrains := by
  intro s r w running ok dropped
  have he := pushEffect_of_dropped r (s := { s with rdata := none }) running dropped
  exact ⟨_, _, (exec_mbox_of_running rfl running).trans (congrArg _ he), rfl,
    fun running' => ⟨(mboxRecompute_frame _).wq, (mboxRecompute_frame _).rdata, (mboxRecompute_frame _).diagLog,
      drainPullsWhatItReads _ ok running'⟩,
    fun noChannel => mboxRecompute_no_channel running noChannel⟩

/-- The read of a push's pending cell (R63, R207). -/
abbrev pendingRead (w : Word) (s : State) : MboxRequest := .read (pendingAddr s.platform (w.toNat % 16))

/-- The write of a pushed word to its payload cell (R63, R207). -/
abbrev payloadWrite (w : Word) : MboxRequest := .write (payloadAddr (w.toNat % 16)) w

/-- Everything a push to a channel in range can do once its pending cell is read: the block has stopped, the word is queued, or it is written to the payload cell (R207). -/
theorem pushToChannel_cases (w : Word) (s : State) :
    let pending := (nextAnswer (pendingRead w s) s).value
    let m := memAccess deliverInPush (pendingRead w s) s
    (m.mboxFatal ≠ none ∧ pushToChannel w s = m) ∨
    (m.mboxFatal = none ∧ pending ≠ 0#32 ∧ pushToChannel w s = pushWq w m) ∨
    (m.mboxFatal = none ∧ pending = 0#32 ∧ pushToChannel w s = memAccess deliverInPush (payloadWrite w) m) := by
  intro pending m
  unfold pushToChannel
  rw [pushChannelField_eq]
  obtain ⟨stops, he⟩ | ⟨runs, he⟩ := unlessStopped_cases m .mbox fun s =>
    if pending != 0#32 then pushWq w s else memAccess deliverInPush (payloadWrite w) s
  · exact .inl ⟨by simpa [Option.isSome_iff_ne_none] using stops, he⟩
  · have running : m.mboxFatal = none := by simpa using runs
    by_cases zero : pending = 0#32
    · exact .inr (.inr ⟨running, zero, he.trans (if_neg (by simp [zero]))⟩)
    · exact .inr (.inl ⟨running, zero, he.trans (if_pos (by simp [zero]))⟩)

/-! ### A push of an environment that delivers nothing -/

section
variable {s : State} {w : Word} {a b : EnvAnswer} {later : List EnvAnswer}
  (running : s.mboxFatal = none) (answers : s.envAnswers = a :: b :: later) (quiet : a.nested = [])
include running answers quiet

/-- The pending cell is read and decides, with nothing between. -/
theorem pushToChannel_quiet :
    pushToChannel w s =
      if a.value = 0#32 then memAccess deliverInPush (payloadWrite w) (useAnswer (pendingRead w s) s)
      else pushWq w (useAnswer (pendingRead w s) s) := by
  have answer : nextAnswer (pendingRead w s) s = a := by simp [nextAnswer, answers]
  have access : memAccess deliverInPush (pendingRead w s) s = useAnswer (pendingRead w s) s :=
    memAccess_quiet (by rw [answer, quiet])
  have cases := pushToChannel_cases w s
  rw [answer, access] at cases
  obtain ⟨stops, -⟩ | ⟨-, pending, he⟩ | ⟨-, free, he⟩ := cases
  · exact absurd running stops
  · rw [he, if_neg pending]
  · rw [he, if_pos free]

/-- A pending cell that is not zero: the word is queued, and one access is made. -/
theorem pushToChannel_queues (room : s.mbox.wq.count < 32) (pending : a.value ≠ 0#32) :
    pushToChannel w s = { s with
      mbox := { s.mbox with wq := s.mbox.wq.push w }, envAnswers := b :: later
      mboxHistory := s.mboxHistory ++ [.read (pendingAddr s.platform (w.toNat % 16)) a.value] } := by
  rw [pushToChannel_quiet running answers quiet, if_neg pending, pushWq_of_room (s := useAnswer (pendingRead w s) s) room]
  simp [useAnswer, answers, nextAnswer, recordOf]

/-- A pending cell of zero: the word is written to the payload cell, and two accesses are made. -/
theorem pushToChannel_writes (quiet' : b.nested = []) (free : a.value = 0#32) :
    pushToChannel w s = { s with
      envAnswers := later
      mboxHistory := s.mboxHistory ++
        [.read (pendingAddr s.platform (w.toNat % 16)) a.value, .write (payloadAddr (w.toNat % 16)) w] } := by
  rw [pushToChannel_quiet running answers quiet, if_pos free, memAccess_quiet (by simpa [nextAnswer, answers] using quiet')]
  simp [useAnswer, answers, nextAnswer, recordOf]

end

/-- With no channel available a recompute that follows a push leaves `wq` as the push made it, and only the guard and the line change. -/
theorem mboxRecompute_no_channel_fields {s : State} (running : s.mboxFatal = none) (noChannel : NoChannel s) :
    (mboxRecompute s).mbox.rq = s.mbox.rq ∧ (mboxRecompute s).router = s.router ∧ (mboxRecompute s).mboxFatal = none ∧
      (mboxRecompute s).mbox = settledMbox s.mbox.rq { s.mbox with wq := (mboxRecompute s).mbox.wq } := by
  rw [mboxRecompute_no_channel running noChannel]
  exact ⟨rfl, rfl, running, rfl⟩

/-- Settles O46: a quiet push makes its one or two accesses and then recomputes the state they left. -/
theorem pushFollowsPendingCell : Obligations.PushFollowsPendingCell := by
  intro s r w a b later running ok _ room valid answers quiet quiet'
  have accepted := pushEffect_of_accepted r (s := { s with rdata := none }) room valid
  by_cases free : a.value = 0#32
  · rw [pushToChannel_writes (s := { s with rdata := none }) running answers quiet quiet' free,
      unlessStopped_of_running (by simp [running])] at accepted
    refine ⟨_, (exec_mbox_of_running rfl running).trans (congrArg _ accepted), fun running' => ?_,
      fun noChannel => mboxRecompute_no_channel_fields running noChannel⟩
    exact ⟨(mboxRecompute_frame _).diagLog, (mboxRecompute_frame _).rdata, fun pending => absurd free pending,
      fun _ => ⟨(mboxRecompute_frame _).wq, drainPullsWhatItReads _ ok running'⟩⟩
  · rw [pushToChannel_queues (s := { s with rdata := none }) running answers quiet room free,
      unlessStopped_of_running (by simp [running])] at accepted
    refine ⟨_, (exec_mbox_of_running rfl running).trans (congrArg _ accepted), fun running' => ?_,
      fun noChannel => mboxRecompute_no_channel_fields running noChannel⟩
    refine ⟨(mboxRecompute_frame _).diagLog, (mboxRecompute_frame _).rdata, fun _ => ?_, fun free' => absurd free' free⟩
    rw [(mboxRecompute_frame _).wq]
    exact ⟨Queue.push_entries w room, drainPullsWhatItReads _ ok running'⟩

/-! ### A push in which signals arrive (R71) -/

theorem SignalFrame.recompute {s t : State} (h : SignalFrame s t) : RecomputeFrame s t := by
  rw [RecomputeFrame]
  rw [SignalFrame] at h
  rw [h]

/-- All a signal nested in an access of a push can do: its latches, or the recompute of a channel signal (R207, R211). -/
theorem deliverInPush_frame (sig : Signal) (s : State) : RecomputeFrame s (deliverInPush sig s) := by
  cases sig with
  | localIrq c i l => exact (deliverInDrain_signalFrame (.localIrq c i l) s).recompute
  | gpuIrq l => exact (deliverInDrain_signalFrame (.gpuIrq l) s).recompute
  | gpuFiq l => exact (deliverInDrain_signalFrame (.gpuFiq l) s).recompute
  | channel ch l =>
    exact unlessStopped_keeps (P := RecomputeFrame s) (sigChannel_keeps _ (fun _ _ h => h.trans rfl) (fun h => h.trans rfl)
      (fun h => h.trans (mboxRecompute_frame _)) ch) rfl

/-- All an access of a push can do (R71, R207). -/
theorem memAccess_push_frame (req : MboxRequest) (s : State) : RecomputeFrame s (memAccess deliverInPush req s) :=
  memAccess_induct (fun sig t h => h.trans (deliverInPush_frame sig t)) req rfl

/-- A push to a channel in range that does not stop the block queues its word exactly when the pending cell is not zero, whatever is delivered in its accesses. -/
theorem pushToChannel_wq {w : Word} {s : State} (room : s.mbox.wq.count < 32) (running : (pushToChannel w s).mboxFatal = none) :
    (pushToChannel w s).mbox.wq.entries =
      s.mbox.wq.entries ++ (if (nextAnswer (pendingRead w s) s).value = 0#32 then [] else [w]) ∧
    (pushToChannel w s).diagLog = s.diagLog := by
  have frame := memAccess_push_frame (pendingRead w s) s
  obtain ⟨stops, he⟩ | ⟨-, pending, he⟩ | ⟨-, free, he⟩ := pushToChannel_cases w s
  · rw [he] at running
    exact absurd running stops
  · have room' : _ < 32 := frame.wq ▸ room
    rw [he, pushWq_of_room room', if_neg pending, ← frame.wq]
    exact ⟨Queue.push_entries w room', frame.diagLog⟩
  · have frame' := frame.trans (memAccess_push_frame (payloadWrite w) _)
    rw [he, if_pos free, List.append_nil, frame'.wq]
    exact ⟨rfl, frame'.diagLog⟩

/-- Settles O47: neither access, whatever is delivered in it, nor the recompute touches the host-write queue or the log. -/
theorem pushQueuesExactlyWhenPending : Obligations.PushQueuesExactlyWhenPending := by
  intro s t r w _ room valid he running
  obtain ⟨-, -, -, rfl⟩ := exec_next he
  have accepted := pushEffect_of_accepted r (s := { s with rdata := none }) room valid
  obtain ⟨pushed, recomputed⟩ := unlessStopped_running ((congrArg State.mboxFatal accepted).symm.trans running)
  have ends : effect (.wrPush r w) { s with rdata := none } = _ := accepted.trans recomputed
  rw [ends, (mboxRecompute_frame _).wq, (mboxRecompute_frame _).diagLog]
  exact pushToChannel_wq room pushed

end Sys2Proof.Machine
end

section
/-! PROOFS. What stops a block (R233): a signal index out of range and nothing else, so that no register access does on a wired platform. -/

namespace Sys2Proof.Machine

/-! ## What a signal and a push can do -/

/-- Everything a channel signal can do: an index out of range stops the block, and one in range sets its flag, after which the recompute may run (R211). -/
theorem sigChannel_cases (recompute : State → State) (ch : Fin 16) (l : Bool) (s : State) :
    (9 ≤ ch.val ∧ sigChannel recompute ch l s = raiseFatal .mbox .signalIndex s) ∨
    ∃ ch', sigChannel recompute ch l s = setChannel ch' l s ∨ sigChannel recompute ch l s = recompute (setChannel ch' l s) := by
  by_cases h : ch.val < 9
  · rw [sigChannel_of_in_range h]
    refine .inr ⟨⟨ch.val, h⟩, ?_⟩
    split
    · exact .inl rfl
    · exact .inr rfl
  · have outOfRange := Nat.not_lt.mp h
    exact .inl ⟨outOfRange, sigChannel_of_out_of_range outOfRange recompute l s⟩

theorem signalInRange_localIrq {c : Fin 16} (i : Fin 4) (l : Bool) (h : 4 ≤ c.val) : signalInRange (.localIrq c i l) = false := by
  rw [signalInRange, ← Bool.not_eq_true, Nat.blt_eq]
  omega

theorem signalInRange_channel {ch : Fin 16} (l : Bool) (h : 9 ≤ ch.val) : signalInRange (.channel ch l) = false := by
  rw [signalInRange, ← Bool.not_eq_true, Nat.blt_eq]
  omega

/-- Everything a nested signal can do: nothing, latch a router line, stop a block if its index is out of range, or set a channel flag, after which the recompute may run (R71). -/
theorem deliverSignal_cases (recompute : State → State) (sig : Signal) (s : State) :
    deliverSignal recompute sig s = s ∨
    (∃ f, deliverSignal recompute sig s = updateRouter f s) ∨
    (signalInRange sig = false ∧ ∃ b, deliverSignal recompute sig s = raiseFatal b .signalIndex s) ∨
    (∃ ch l, deliverSignal recompute sig s = setChannel ch l s ∨
      deliverSignal recompute sig s = recompute (setChannel ch l s)) := by
  cases sig with
  | localIrq c i l =>
    obtain ⟨-, he⟩ | ⟨-, he⟩ := unlessStopped_cases s .router (sigLocalIrq c i l)
    · exact .inl he
    by_cases h : c.val < 4
    · exact .inr (.inl ⟨_, he.trans (dif_pos h)⟩)
    · have outOfRange := Nat.not_lt.mp h
      exact .inr (.inr (.inl ⟨signalInRange_localIrq i l outOfRange, .router,
        he.trans (sigLocalIrq_of_out_of_range outOfRange i l s)⟩))
  | gpuIrq l =>
    obtain ⟨-, he⟩ | ⟨-, he⟩ := unlessStopped_cases s .router (sigGpuIrq l)
    · exact .inl he
    · exact .inr (.inl ⟨_, he⟩)
  | gpuFiq l =>
    obtain ⟨-, he⟩ | ⟨-, he⟩ := unlessStopped_cases s .router (sigGpuFiq l)
    · exact .inl he
    · exact .inr (.inl ⟨_, he⟩)
  | channel ch l =>
    obtain ⟨-, he⟩ | ⟨-, he⟩ := unlessStopped_cases s .mbox (sigChannel recompute ch l)
    · exact .inl he
    obtain ⟨outOfRange, hs⟩ | ⟨ch', hs⟩ := sigChannel_cases recompute ch l s
    · exact .inr (.inr (.inl ⟨signalInRange_channel l outOfRange, .mbox, he.trans hs⟩))
    · exact .inr (.inr (.inr ⟨ch', l, hs.imp he.trans he.trans⟩))

/-- Everything a push can do before its recompute: drop the word with a record, or read a pending cell, after which the block may have stopped, the word may be queued where there was room, or the payload cell be written (R207). -/
theorem pushEffect_cases (r : Fin 4) (w : Word) (s : State) :
    ∃ u, pushEffect r w s = unlessStopped .mbox mboxRecompute u ∧
      ((∃ kind, u = logDiag .mbox kind (pushOffset r) w s) ∨
      ∃ req, let m := memAccess deliverInPush req s
        u = m ∨ (s.mbox.wq.count ≠ 32 ∧ u = pushWq w m) ∨ ∃ req', u = memAccess deliverInPush req' m) := by
  refine ⟨_, rfl, ?_⟩
  split
  · exact .inl ⟨_, rfl⟩
  · next notFull =>
    split
    · exact .inl ⟨_, rfl⟩
    · refine .inr ⟨pendingRead w s, ?_⟩
      obtain ⟨-, he⟩ | ⟨-, -, he⟩ | ⟨-, -, he⟩ := pushToChannel_cases w s
      · exact .inl he
      · exact .inr (.inl ⟨by simpa [Queue.isFull] using notFull, he⟩)
      · exact .inr (.inr ⟨_, he⟩)

/-! ## What a mailbox event keeps while `rq` is bounded -/

/-- `P k` bounds `rq`, allows `k` accesses, and is kept by the operations of the mailbox events, each access of a drain taking one of the `k`. No drain pushes to a full `rq` (R170, R173), so nothing is asked of a fatal stop. -/
structure BudgetKeeps (P : Nat → State → Prop) : Prop where
  bound : ∀ {k s}, P k s → s.mbox.rq.count ≤ 32
  weaken : ∀ {k m s}, k ≤ m → P m s → P k s
  setMbox : ∀ m {k s}, m.rq.count ≤ 32 → P k s → P k { s with mbox := m }
  drainAccess : ∀ req {k s}, P (k + 1) s → P k (memAccess deliverInDrain req s)
  log : ∀ kind off v {k s}, P k s → P k (logDiag .mbox kind off v s)
  reply : ∀ v {k s}, P k s → P k (reply v s)

namespace BudgetKeeps

variable {P : Nat → State → Prop} (hP : BudgetKeeps P) {k : Nat} {s : State}
include hP

/-- No access of the scan changes `rq`, so a word that is pulled finds the room the pass began with. -/
theorem drainScan (chs : List Channel) (room : s.mbox.rq.count < 32) (h : P (k + chs.length) s) : P k (drainScan chs s).2 := by
  induction chs generalizing s with
  | nil => exact h
  | cons ch rest ih =>
    cases available : s.mbox.channelAvailable[ch] with
    | false =>
      rw [drainScan_unavailable rest available]
      exact ih room (hP.weaken (Nat.le_succ _) h)
    | true =>
      have read : P (k + rest.length) (afterCellRead ch s) := hP.drainAccess _ h
      have read' := hP.weaken (Nat.le_add_right k _) read
      obtain ⟨-, rq, -⟩ := afterCellRead_frame ch s
      rw [← rq] at room
      obtain ⟨-, he⟩ | ⟨-, -, he⟩ | ⟨-, -, he⟩ := drainScan_available rest available
      · rwa [he]
      · rw [he, pushRq_of_room room]
        exact hP.setMbox _ room read'
      · rw [he]
        exact ih room read

/-- Each pass makes at most nine accesses. -/
theorem drainLoop (n : Nat) (h : P (k + 9 * n) s) : P k (drainLoop n s) := by
  induction n generalizing s with
  | zero => exact h
  | succ n ih =>
    have bound := hP.bound h
    obtain full | ⟨notFull, pulled, t, scan, ends⟩ | ⟨notFull, t, scan, running⟩ := drain_cases s
    · rw [drainLoop_of_full _ full]
      exact hP.weaken (Nat.le_add_right k _) h
    · have pass := hP.drainScan allChannels (by omega) h
      rw [drainLoop_of_ended n notFull scan ends]
      rw [scan] at pass
      exact hP.weaken (Nat.le_add_right k _) pass
    · have pass : P (k + 9 * n) (Machine.drainScan allChannels s).2 := hP.drainScan allChannels (by omega) h
      rw [drainLoop_of_pulled n notFull scan running]
      rw [scan] at pass
      exact ih pass

/-- A recompute makes at most 33 passes (R176). -/
theorem mboxRecompute (h : P (k + 297) s) : P k (mboxRecompute s) := by
  have drained : P k (Machine.drainLoop drainPasses (setGuard true s)) := hP.drainLoop 33 (hP.setMbox _ (hP.bound h) h)
  obtain ⟨-, he⟩ | ⟨-, he⟩ := mboxRecompute_cases s
  · rwa [he]
  · rw [he]
    have cleared := hP.setMbox { (Machine.drainLoop drainPasses (setGuard true s)).mbox with updateInProgress := false }
      (hP.bound drained) drained
    exact hP.setMbox _ (hP.bound cleared) cleared

theorem unlessStopped {f : State → State} (hf : ∀ {s}, P (k + 297) s → P k (f s)) (h : P (k + 297) s) :
    P k (unlessStopped .mbox f s) := by
  obtain ⟨-, he⟩ | ⟨-, he⟩ := unlessStopped_cases s .mbox f
  · rw [he]
    exact hP.weaken (Nat.le_add_right k _) h
  · rw [he]
    exact hf h

theorem recomputeThenReply (v : Word) (h : P (k + 297) s) : P k (recomputeThenReply v s) :=
  unlessStopped_keeps (hP.reply v) (hP.mboxRecompute h)

theorem rdPop (h : P (k + 297) s) : P k (popEffect s) := by
  have bound := hP.bound h
  have bound' : (s.mbox.rq.popped s.platform.sentinel).count ≤ 32 := by
    rw [Queue.popped_count]
    omega
  rw [popEffect_eq]
  exact hP.recomputeThenReply _ (hP.setMbox _ bound' h)

/-- Every mailbox event but a push and a channel signal makes one recompute at most. -/
theorem effect {i : Instr} (hb : eventBlock i = some .mbox)
    (push : ∀ r w, i = .wrPush r w → P k (pushEffect r w s))
    (signal : ∀ ch l, i = .sigChannelAvailable ch l → P k (sigChannel Machine.mboxRecompute ch l s))
    (h : P (k + 297) s) : P k (effect i s) := by
  have h' := hP.weaken (Nat.le_add_right k _) h
  cases i with
  | rdPop r => exact hP.rdPop h
  | rdPeek | rdSender | rdConfig => exact hP.recomputeThenReply _ h
  | rdStatus0 | rdStatus1 => exact hP.reply _ h'
  | wrConfig w => exact hP.mboxRecompute (hP.setMbox _ (hP.bound h) h)
  | wrPush r w => exact push r w rfl
  | rdMboxBad off => exact hP.reply _ (hP.log _ _ _ h')
  | wrMboxBad off w => exact hP.log _ _ _ h'
  | mboxBadAccess kind size off w =>
    cases kind with
    | read => exact hP.reply _ (hP.log _ _ _ h')
    | write => exact hP.log _ _ _ h'
  | sigChannelAvailable ch l => exact signal ch l rfl
  | resetMbox => exact hP.mboxRecompute (hP.setMbox _ (Nat.zero_le _) h)
  | _ => cases hb

end BudgetKeeps

/-! ## Only a signal index is fatal (R233) -/

/-- `rq` is bounded, and a flag that is set was set by a signal index. -/
structure SignalFatalOnly (s : State) : Prop where
  bound : s.mbox.rq.count ≤ 32
  router : OnlySignalFatal s.routerFatal
  mbox : OnlySignalFatal s.mboxFatal

theorem OnlySignalFatal.stop {f : Option FatalKind} (h : OnlySignalFatal f) : OnlySignalFatal (f.or (some .signalIndex)) := by
  obtain rfl | rfl := h <;> exact .inr rfl

namespace SignalFatalOnly

variable {s : State}

theorem stop (b : Block) (h : SignalFatalOnly s) : SignalFatalOnly (raiseFatal b .signalIndex s) := by
  cases b with
  | router => exact { h with router := h.router.stop }
  | mbox => exact { h with mbox := h.mbox.stop }

theorem deliverSignal {recompute : State → State} (run : ∀ {t}, SignalFatalOnly t → SignalFatalOnly (recompute t)) (sig : Signal)
    (h : SignalFatalOnly s) : SignalFatalOnly (deliverSignal recompute sig s) := by
  obtain he | ⟨f, he⟩ | ⟨-, b, he⟩ | ⟨ch, l, he | he⟩ := deliverSignal_cases recompute sig s
  · rwa [he]
  · rw [he]
    exact { h with }
  · rw [he]
    exact h.stop b
  · rw [he]
    exact { h with }
  · rw [he]
    exact run { h with }

theorem memAccess {deliver : Signal → State → State} (hd : ∀ sig t, SignalFatalOnly t → SignalFatalOnly (deliver sig t))
    (req : MboxRequest) (h : SignalFatalOnly s) : SignalFatalOnly (memAccess deliver req s) :=
  memAccess_induct hd req { h with }

/-- Any number of accesses keeps it. -/
theorem budgetKeeps : BudgetKeeps fun _ => SignalFatalOnly where
  bound h := h.bound
  weaken _ h := h
  setMbox _ _ _ bound h := { h with bound }
  drainAccess req _ _ h := h.memAccess (fun sig _ => deliverSignal id sig) req
  log _ _ _ _ _ h := { h with }
  reply _ _ _ h := { h with }

theorem mboxRecompute (h : SignalFatalOnly s) : SignalFatalOnly (mboxRecompute s) :=
  budgetKeeps.mboxRecompute (k := 0) h

theorem pushAccess (req : MboxRequest) (h : SignalFatalOnly s) : SignalFatalOnly (Machine.memAccess deliverInPush req s) :=
  h.memAccess (fun sig _ => deliverSignal mboxRecompute sig) req

/-- The queue that was not full when the push began has room when its pending cell has been read. -/
theorem wrPush (r : Fin 4) (w : Word) (bound : s.mbox.wq.count ≤ 32) (h : SignalFatalOnly s) :
    SignalFatalOnly (pushEffect r w s) := by
  obtain ⟨u, he, hu⟩ := pushEffect_cases r w s
  rw [he]
  refine unlessStopped_keeps mboxRecompute ?_
  obtain ⟨kind, rfl⟩ | ⟨req, rfl | ⟨notFull, rfl⟩ | ⟨req', rfl⟩⟩ := hu
  · exact { h with }
  · exact h.pushAccess req
  · have read := h.pushAccess req
    have wq := (memAccess_push_frame req s).wq
    rw [pushWq_of_room (by rw [wq]; omega)]
    exact { read with }
  · exact (h.pushAccess req).pushAccess req'

theorem signal (ch : Fin 16) (l : Bool) (h : SignalFatalOnly s) : SignalFatalOnly (sigChannel Machine.mboxRecompute ch l s) :=
  sigChannel_keeps SignalFatalOnly (fun _ _ h => { h with }) (stop .mbox) mboxRecompute ch h

theorem mboxEffect {i : Instr} (hb : eventBlock i = some .mbox) (bound : s.mbox.wq.count ≤ 32) (h : SignalFatalOnly s) :
    SignalFatalOnly (effect i s) :=
  budgetKeeps.effect (k := 0) hb (fun r w _ => h.wrPush r w bound) (fun ch l _ => h.signal ch l) h

end SignalFatalOnly

/-- No router event stops a block but a local line's signal whose core is out of range (R125, R233). -/
theorem routerEffect_routerFatal {i : Instr} (hb : eventBlock i = some .router) (s : State) :
    (effect i s).routerFatal = s.routerFatal ∨
      isSignal i = true ∧ (effect i s).routerFatal = s.routerFatal.or (some .signalIndex) := by
  cases i with
  | rdGpuRoute | wrGpuRoute w | rdLocalRouteCtrl c | wrLocalRouteCtrl c w | rdMboxRouteCtrl c | wrMboxRouteCtrl c w
    | rdIrqSource c | rdFiqSource c | wrMboxSet m w | rdMbox m | wrMboxClr m w | rdRouterBad off | wrRouterBad off w
    | sigGpuIrq l | sigGpuFiq l | resetRouter => exact .inl rfl
  | routerBadAccess kind size off w => cases kind <;> exact .inl rfl
  | sigLocalIrq c i l =>
    show (sigLocalIrq c i l s).routerFatal = _ ∨ _ ∧ (sigLocalIrq c i l s).routerFatal = _
    by_cases h : c.val < 4
    · rw [sigLocalIrq, dif_pos h]
      exact .inl rfl
    · rw [sigLocalIrq_of_out_of_range (Nat.not_lt.mp h)]
      exact .inr ⟨rfl, rfl⟩
  | _ => cases hb

theorem routerEffect_mboxFatal {i : Instr} (hb : eventBlock i = some .router) (s : State) : (effect i s).mboxFatal = s.mboxFatal :=
  ((mboxFrame_routerKeeps s).effect hb ⟨rfl, rfl, rfl, rfl, rfl, rfl⟩).mboxFatal

/-- Settles O54: a router event can raise a signal index only, and in a mailbox event every push finds room. -/
theorem onlySignalIndexIsFatal : Obligations.OnlySignalIndexIsFatal := by
  intro i s t ⟨_, ⟨rq, _⟩, ⟨wq, _⟩, _⟩ router mbox he
  obtain ⟨b, hb, -, rfl⟩ := exec_next he
  cases b with
  | router =>
    rw [routerEffect_mboxFatal hb]
    obtain same | ⟨-, raised⟩ := routerEffect_routerFatal hb { s with rdata := none }
    · rw [same]
      exact ⟨router, mbox⟩
    · rw [raised]
      exact ⟨router.stop, mbox⟩
  | mbox =>
    have h := SignalFatalOnly.mboxEffect (s := { s with rdata := none }) hb wq ⟨rq, router, mbox⟩
    exact ⟨h.router, h.mbox⟩

end Sys2Proof.Machine
end

section
/-! PROOFS. No register access is fatal on a wired platform that lists enough answers (R176, R207, R233). -/

namespace Sys2Proof.Machine

/-! ## A wired environment with answers to spare -/

/-- `rq` is bounded, both blocks run, and the next `k` accesses at least are answered from the list `as`. -/
structure Supplied (as : List EnvAnswer) (k : Nat) (s : State) : Prop where
  bound : s.mbox.rq.count ≤ 32
  routerRuns : s.routerFatal = none
  mboxRuns : s.mboxFatal = none
  answers : s.envAnswers <:+ as
  supply : k ≤ s.envAnswers.length

namespace Supplied

variable {as : List EnvAnswer} {k c : Nat} {s : State}

theorem weaken {m : Nat} (le : k ≤ m) (h : Supplied as m s) : Supplied as k s :=
  { h with supply := le.trans h.supply }

/-- The next access is answered from the list, and one answer fewer is left. -/
theorem useAnswer (req : MboxRequest) (h : Supplied as (k + 1) s) :
    nextAnswer req s ∈ as ∧ Supplied as k (useAnswer req s) := by
  have answers := h.answers
  have supply := h.supply
  cases listed : s.envAnswers with
  | nil => simp [listed] at supply
  | cons a rest =>
    rw [listed] at answers supply
    refine ⟨?_, { h with answers := ?_, supply := ?_ }⟩
    · rw [nextAnswer, listed]
      exact answers.subset (List.mem_cons_self ..)
    · rw [useAnswer_envAnswers, listed]
      exact (List.suffix_cons a rest).trans answers
    · rw [useAnswer_envAnswers, listed]
      exact Nat.le_of_succ_le_succ supply

/-- A signal in range stops no block, and uses the answers that the recompute it may start uses. -/
theorem deliverSignal {recompute : State → State} {sig : Signal} (inRange : signalInRange sig = true)
    (run : ∀ {t}, Supplied as (k + c) t → Supplied as k (recompute t)) (h : Supplied as (k + c) s) :
    Supplied as k (deliverSignal recompute sig s) := by
  have h' := h.weaken (Nat.le_add_right k c)
  obtain he | ⟨f, he⟩ | ⟨outOfRange, -⟩ | ⟨ch, l, he | he⟩ := deliverSignal_cases recompute sig s
  · rwa [he]
  · rw [he]
    exact { h' with }
  · rw [inRange] at outOfRange
    cases outOfRange
  · rw [he]
    exact { h' with }
  · rw [he]
    exact run { h with }

/-- Signals in range, each of which uses `c` answers at most. -/
theorem deliverAll {deliver : Signal → State → State} {l : List Signal} (inRange : ∀ sig ∈ l, signalInRange sig = true)
    (hd : ∀ sig, signalInRange sig = true → ∀ {k t}, Supplied as (k + c) t → Supplied as k (deliver sig t))
    (h : Supplied as (k + c * l.length) s) : Supplied as k (l.foldl (fun s sig => deliver sig s) s) := by
  induction l generalizing s with
  | nil => exact h
  | cons sig l ih =>
    obtain ⟨first, others⟩ := List.forall_mem_cons.mp inRange
    rw [List.length_cons, Nat.mul_succ, ← Nat.add_assoc] at h
    exact ih others (hd sig first h)

section
variable (wired : ∀ a ∈ as, ∀ sig ∈ a.nested, signalInRange sig = true)
include wired

/-- An access uses its own answer and those of the signals nested in it. -/
theorem memAccess {deliver : Signal → State → State}
    (hd : ∀ sig, signalInRange sig = true → ∀ {k t}, Supplied as (k + c) t → Supplied as k (deliver sig t))
    (req : MboxRequest) (h : Supplied as (k + c * (nextAnswer req s).nested.length + 1) s) :
    Supplied as k (memAccess deliver req s) := by
  obtain ⟨listed, used⟩ := h.useAnswer req
  exact used.deliverAll (wired _ listed) hd

/-- An access of a drain uses one answer, as nothing it delivers recomputes (R175). -/
theorem budgetKeeps : BudgetKeeps (Supplied as) where
  bound h := h.bound
  weaken le h := h.weaken le
  setMbox _ _ _ bound h := { h with bound }
  drainAccess req k _ h :=
    memAccess wired (c := 0) (fun _ inRange _ _ => deliverSignal inRange id) req (by simpa using h)
  log _ _ _ _ _ h := { h with }
  reply _ _ _ h := { h with }

theorem deliverInPush (sig : Signal) (inRange : signalInRange sig = true) (h : Supplied as (k + 297) s) :
    Supplied as k (deliverInPush sig s) :=
  h.deliverSignal inRange (budgetKeeps wired).mboxRecompute

section
variable {n : Nat} (short : ∀ a ∈ as, a.nested.length ≤ n)
include short

/-- An access of a push uses one answer, and those of a recompute for each signal delivered in it (R207). -/
theorem pushAccess (req : MboxRequest) (h : Supplied as (k + 297 * n + 1) s) :
    Supplied as k (Machine.memAccess Machine.deliverInPush req s) := by
  obtain ⟨listed, -⟩ := h.useAnswer req
  have nested := short _ listed
  exact memAccess wired (c := 297) (fun sig inRange _ _ => deliverInPush wired sig inRange) req
    (h.weaken (by omega))

/-- A push makes two accesses at most, and a recompute at its end. -/
theorem wrPush (r : Fin 4) (w : Word) (bound : s.mbox.wq.count ≤ 32) (h : Supplied as (k + (2 + 297 * (2 * n + 1))) s) :
    Supplied as k (pushEffect r w s) := by
  obtain ⟨u, he, hu⟩ := pushEffect_cases r w s
  rw [he]
  refine (budgetKeeps wired).unlessStopped (budgetKeeps wired).mboxRecompute ?_
  have read : ∀ req, Supplied as (k + 297 + 297 * n + 1) (Machine.memAccess Machine.deliverInPush req s) := fun req =>
    pushAccess wired short req (h.weaken (by omega))
  obtain ⟨kind, rfl⟩ | ⟨req, rfl | ⟨notFull, rfl⟩ | ⟨req', rfl⟩⟩ := hu
  · exact { h.weaken (by omega) with }
  · exact (read req).weaken (by omega)
  · have wq := (memAccess_push_frame req s).wq
    rw [pushWq_of_room (by rw [wq]; omega)]
    exact { (read req).weaken (by omega) with }
  · exact pushAccess wired short req' (read req)

end

end

end Supplied

/-- Settles O55: nothing in a router access raises a flag, and a mailbox access finds every answer it uses listed and every signal in it in range. -/
theorem registerAccessIsNeverFatal : Obligations.RegisterAccessIsNeverFatal := by
  constructor
  · intro i s t router notSignal he
    have hb := eventBlock_of_isRouterEvent router
    rw [exec_eq hb, onEvent_next] at he
    obtain ⟨-, rfl⟩ := he
    refine ⟨?_, routerEffect_mboxFatal hb _⟩
    obtain same | ⟨signal, -⟩ := routerEffect_routerFatal hb { s with rdata := none }
    · exact same
    · rw [notSignal] at signal
      cases signal
  · intro i s hb notSignal ⟨_, ⟨rq, _⟩, ⟨wq, _⟩, _⟩ routerRuns mboxRuns wired ⟨enough, enoughForPush⟩
    have h : Supplied s.envAnswers s.envAnswers.length { s with rdata := none } :=
      ⟨rq, routerRuns, mboxRuns, List.suffix_rfl, Nat.le_refl _⟩
    have runs : Supplied s.envAnswers 0 (effect i { s with rdata := none }) := by
      refine (Supplied.budgetKeeps wired).effect hb (fun r w push => ?_) (fun ch l signal => ?_) (h.weaken enough)
      · obtain ⟨n, short, enough'⟩ := enoughForPush ⟨r, w, push⟩
        exact Supplied.wrPush wired short r w wq (h.weaken (by rwa [Nat.zero_add]))
      · rw [signal] at notSignal
        cases notSignal
    exact ⟨_, exec_mbox_of_running hb mboxRuns, runs.routerRuns, runs.mboxRuns,
      fun read => effect_returns_of_isRead read _ (.inr runs.mboxRuns)⟩

end Sys2Proof.Machine
end

section
/-! PROOFS. Events in their order (R233, R237): which run, what they log, and that router lines do not depend on it. -/

namespace Sys2Proof.Machine

/-! ## Which events run (R39, R233) -/

/-- Settles O8: an event is its effect in its block's frame, and the frame asks for the block's flag only. -/
theorem eventRunsUnlessBlockStopped : Obligations.EventRunsUnlessBlockStopped := by
  intro i s b hb
  rw [exec_eq hb]
  exact ⟨fun stops => (onEvent_fault s b _ _).mpr ⟨stops, rfl⟩, fun runs => ⟨_, (onEvent_next s b _ _).mpr ⟨runs, rfl⟩⟩⟩

/-! ## What an event logs (R231, R232) -/

section
variable {s : State}

theorem sigLocalIrq_diagLog (c : Fin 16) (i : Fin 4) (l : Bool) : (sigLocalIrq c i l s).diagLog = s.diagLog :=
  (sigLocalIrq_signalFrame c i l s).recompute.diagLog

theorem sigChannel_diagLog (ch : Fin 16) (l : Bool) : (sigChannel mboxRecompute ch l s).diagLog = s.diagLog :=
  sigChannel_keeps (fun t => t.diagLog = s.diagLog) (fun _ _ h => h) (fun h => h) (fun h => (mboxRecompute_frame _).diagLog.trans h) ch rfl

theorem recomputeThenReply_diagLog (v : Word) : (recomputeThenReply v s).diagLog = s.diagLog :=
  unlessStopped_keeps (P := fun t => t.diagLog = s.diagLog) (fun h => h) (mboxRecompute_frame s).diagLog

theorem pushWq_diagLog (w : Word) : (pushWq w s).diagLog = s.diagLog := by
  unfold pushWq
  split <;> rfl

/-- A push logs the record of a word it drops, and no access or recompute logs. -/
theorem pushEffect_diagLog (r : Fin 4) (w : Word) : (pushEffect r w s).diagLog = s.diagLog ∨
    ∃ kind, (pushEffect r w s).diagLog = s.diagLog ++ [⟨.mbox, kind, pushOffset r, w⟩] := by
  obtain ⟨u, he, hu⟩ := pushEffect_cases r w s
  have recomputed : (pushEffect r w s).diagLog = u.diagLog := by
    rw [he]
    exact unlessStopped_keeps (P := fun t => t.diagLog = u.diagLog) (fun _ => (mboxRecompute_frame u).diagLog) rfl
  rw [recomputed]
  obtain ⟨kind, rfl⟩ | ⟨req, rfl | ⟨-, rfl⟩ | ⟨req', rfl⟩⟩ := hu
  · exact .inr ⟨kind, rfl⟩
  · exact .inl (memAccess_push_frame req s).diagLog
  · exact .inl ((pushWq_diagLog w).trans (memAccess_push_frame req s).diagLog)
  · exact .inl ((memAccess_push_frame req s).trans (memAccess_push_frame req' _)).diagLog

/-- Signals and resets log nothing. -/
theorem effect_logs_nothing {i : Instr} (hi : isSignal i = true ∨ i = .resetRouter ∨ i = .resetMbox) :
    (effect i s).diagLog = s.diagLog := by
  cases i with
  | sigLocalIrq c i l => exact sigLocalIrq_diagLog c i l
  | sigGpuIrq l | sigGpuFiq l | resetRouter => rfl
  | sigChannelAvailable ch l => exact sigChannel_diagLog ch l
  | resetMbox => exact (mboxRecompute_frame _).diagLog
  | _ => simp [isSignal] at hi

/-- Every event logs nothing, or one record of its own block. -/
theorem effect_diagLog (i : Instr) : (effect i s).diagLog = s.diagLog ∨
    ∃ d : Diag, (effect i s).diagLog = s.diagLog ++ [d] ∧ eventBlock i = some d.block := by
  cases i with
  | rdGpuRoute | wrGpuRoute w | rdLocalRouteCtrl c | wrLocalRouteCtrl c w | rdMboxRouteCtrl c | wrMboxRouteCtrl c w
    | rdIrqSource c | rdFiqSource c | wrMboxSet m w | rdMbox m | wrMboxClr m w | rdStatus0 | rdStatus1 | reservedKey key =>
    exact .inl rfl
  | rdRouterBad off | wrRouterBad off w | rdMboxBad off | wrMboxBad off w => exact .inr ⟨_, rfl, rfl⟩
  | routerBadAccess kind size off w | mboxBadAccess kind size off w => cases kind <;> exact .inr ⟨_, rfl, rfl⟩
  | rdPop r =>
    obtain ⟨v, he⟩ : ∃ v, effect (.rdPop r) s = recomputeThenReply v _ := ⟨_, popEffect_eq s⟩
    rw [he]
    exact .inl (recomputeThenReply_diagLog v)
  | rdPeek | rdSender | rdConfig => exact .inl (recomputeThenReply_diagLog _)
  | wrConfig w => exact .inl (mboxRecompute_frame _).diagLog
  | wrPush r w => exact (pushEffect_diagLog r w).imp id fun ⟨_, logged⟩ => ⟨_, logged, rfl⟩
  | sigLocalIrq | sigGpuIrq | sigGpuFiq | sigChannelAvailable => exact .inl (effect_logs_nothing (.inl rfl))
  | resetRouter | resetMbox => exact .inl (effect_logs_nothing (by simp))

end

/-- Settles O52: an event that runs leaves its effect, which logs once at most. -/
theorem atMostOneDiagnostic : Obligations.AtMostOneDiagnostic := by
  intro i s t he
  obtain ⟨b, -, -, rfl⟩ := exec_next he
  exact ⟨effect_diagLog i, effect_logs_nothing⟩

/-! ## Two router lines (R237) -/

theorem setBit_comm {w i j : Nat} (v : BitVec w) (hi : i < w) (hj : j < w) (ne : i ≠ j) (b b' : Bool) :
    setBit (setBit v i b) j b' = setBit (setBit v j b') i b := by
  refine BitVec.eq_of_getLsbD_eq fun n _ => ?_
  simp only [setBit_getLsbD _ hi, setBit_getLsbD _ hj]
  obtain rfl | other := eq_or_ne n i
  · simp [ne]
  · simp [other]

/-- Two different router lines are latched in different bits. -/
theorem RouterLine.latch_comm {n n' : RouterLine} (ne : n ≠ n') (l l' : Bool) (r : Router) :
    n'.latch l' (n.latch l r) = n.latch l (n'.latch l' r) := by
  cases n with
  | localLine c i =>
    cases n' with
    | localLine c' i' =>
      by_cases sameCore : c = c'
      · subst sameCore
        have other : i.val ≠ i'.val := fun h => ne (by rw [Fin.ext h])
        simp [RouterLine.latch, Router.setLocalIrq, setBit_comm _ i.isLt i'.isLt other]
      · have other : c.val ≠ c'.val := fun h => sameCore (Fin.ext h)
        simp [RouterLine.latch, Router.setLocalIrq, other, other.symm, Vector.set_comm _ _ other]
    | gpuIrqLine | gpuFiqLine => rfl
  | gpuIrqLine =>
    cases n' with
    | gpuIrqLine => exact absurd rfl ne
    | localLine c' i' | gpuFiqLine => rfl
  | gpuFiqLine =>
    cases n' with
    | gpuFiqLine => exact absurd rfl ne
    | localLine c' i' | gpuIrqLine => rfl

/-- After two signals the router is recomputed from both latches, as the recompute between them changes no input. -/
theorem updateRouter_latch_latch (n n' : RouterLine) (l l' : Bool) (s : State) :
    updateRouter (n'.latch l') { updateRouter (n.latch l) s with rdata := none } =
      { s with router := routerRecompute (n'.latch l' (n.latch l s.router)), rdata := none } := by
  have same := n'.latch_sameInputs l' (routerRecompute_sameInputs (n.latch l s.router))
  simp [updateRouter, routerRecompute_congr same]

/-- Settles O27: the router after both signals is that of both latches, which are of different bits. -/
theorem routerSignalsCommute : Obligations.RouterSignalsCommute := by
  intro s t t' u u' n n' l l' ne first second first' second'
  rw [exec_routerLine, onEvent_next] at first second first' second'
  obtain ⟨-, rfl⟩ := first
  obtain ⟨-, rfl⟩ := second
  obtain ⟨-, rfl⟩ := first'
  obtain ⟨-, rfl⟩ := second'
  rw [updateRouter_latch_latch, updateRouter_latch_latch, RouterLine.latch_comm ne]

end Sys2Proof.Machine
end

section
/-! PROOFS. The resets (R260 to R262): the reset state of each block, and what its registers read in it. -/

namespace Sys2Proof.Machine

/-! ## The router (R260) -/

/-- In the reset state no source is active, so RouterRecompute finds nothing stale. -/
theorem routerReset_fresh : Router.reset.Fresh := by decide +kernel

/-- RESET_ROUTER clears every input, and the inputs alone decide what the recompute gives. -/
theorem routerRecompute_clearRouter (r : Router) : routerRecompute (clearRouter r) = Router.reset :=
  (routerRecompute_congr (r := Router.reset) rfl).trans routerReset_fresh

/-- A register whose value in the reset state is 0 reads 0 there. -/
theorem routerRead_of_reset {s : State} (running : s.routerFatal = none) (reset : s.router = Router.reset) {value : Router → Word}
    (zero : value Router.reset = 0#32) :
    onEvent .router (fun s => reply (value s.router) s) s = .next { s with rdata := some 0#32 } := by
  rw [routerRead_returns running, reset, zero]

/-- In the reset state every router register reads 0. -/
theorem routerRegisterRead_of_reset {s : State} (running : s.routerFatal = none) (reset : s.router = Router.reset) {i : Instr}
    (read : IsRouterRegisterRead i) : exec i s = .next { s with rdata := some 0#32 } := by
  obtain rfl | ⟨c, rfl | rfl | rfl | rfl⟩ | ⟨m, rfl⟩ := read
  · exact routerRead_of_reset running reset (value := gpuRouteWord) rfl
  · exact routerRead_of_reset running reset (value := fun r => r.localRouteCtrl[c].setWidth 32) (by simp [Router.reset])
  · exact routerRead_of_reset running reset (value := fun r => r.mailboxRouteCtrl[c].setWidth 32) (by simp [Router.reset])
  · exact routerRead_of_reset running reset (value := fun r => r.irqSource[c].setWidth 32) (by simp [Router.reset])
  · exact routerRead_of_reset running reset (value := fun r => r.fiqSource[c].setWidth 32) (by simp [Router.reset])
  · exact routerRead_of_reset running reset (value := fun r => r.mboxWord[m]) (by simp [Router.reset])

/-- Settles O29: whatever the outputs before, the recompute of cleared inputs gives the reset state, in which every register is 0. -/
theorem resetRouterResult : Obligations.ResetRouterResult := by
  intro s running
  refine ⟨?_, fun i => routerRegisterRead_of_reset (s := { s with router := Router.reset, rdata := none }) running rfl⟩
  rw [exec_resetRouter, onEvent_router_of_running running, updateRouter, routerRecompute_clearRouter]

/-! ## The mailbox block (R261) -/

/-- The state with its mailbox block as RESET_MBOX leaves it. -/
abbrev withResetMbox (s : State) : State := { s with mbox := Mbox.reset s.platform.sentinel }

/-- Event `i` is a read of a mailbox register whose value after mailbox reset is `v` (R261). -/
abbrev ReadsAfterResetMbox (sentinel : Word) (i : Instr) (v : Word) : Prop :=
  ((i = .rdStatus0 ∨ i = .rdStatus1) ∧ v = 0x40000000#32) ∨ ((i = .rdConfig ∨ i = .rdSender) ∧ v = 0#32) ∨
    ((i = .rdPeek ∨ ∃ r, i = .rdPop r) ∧ v = sentinel)

/-- An empty queue reads as EMPTY (R33). -/
theorem Queue.status_empty (sentinel : Word) : (Queue.empty sentinel).status = 0x40000000#32 :=
  BitVec.eq_of_toNat_eq (Queue.status_toNat _)

section
variable {s : State} (running : s.mboxFatal = none)
include running

/-- The recompute of RESET_MBOX finds no channel available and an empty queue: it reads nothing and lowers the line. -/
theorem mboxRecompute_clearMbox :
    mboxRecompute { s with mbox := clearMbox s.platform.sentinel s.mbox } = withResetMbox s :=
  mboxRecompute_no_channel running fun _ => Vector.getElem_replicate _

/-- A draining read of the reset block drains nothing. -/
theorem recomputeThenReply_withResetMbox (v : Word) : recomputeThenReply v (withResetMbox s) = reply v (withResetMbox s) :=
  recomputeThenReply_no_channel v running fun _ => Vector.getElem_replicate _

/-- Each such read replies its value: the status reads as it stands, the others after an empty drain. -/
theorem effect_withResetMbox {i : Instr} {v : Word} (read : ReadsAfterResetMbox s.platform.sentinel i v) :
    eventBlock i = some .mbox ∧ effect i (withResetMbox s) = reply v (withResetMbox s) := by
  obtain ⟨rfl | rfl, rfl⟩ | ⟨rfl | rfl, rfl⟩ | ⟨rfl | ⟨r, rfl⟩, rfl⟩ := read
  · exact ⟨rfl, congrArg (reply · _) (Queue.status_empty _)⟩
  · exact ⟨rfl, congrArg (reply · _) (Queue.status_empty _)⟩
  all_goals exact ⟨rfl, recomputeThenReply_withResetMbox running _⟩

/-- A read of the reset block returns its value and changes nothing. -/
theorem exec_withResetMbox {i : Instr} {v : Word} (read : ReadsAfterResetMbox s.platform.sentinel i v) :
    exec i (withResetMbox s) = .next { withResetMbox s with rdata := some v } := by
  obtain ⟨block, replies⟩ := effect_withResetMbox (s := { s with rdata := none }) running read
  exact (exec_mbox_of_running (s := withResetMbox s) block running).trans (congrArg _ replies)

end

/-- Settles O50: with every channel flag cleared the recompute makes no access, and neither does that of a read after it. -/
theorem resetMboxResult : Obligations.ResetMboxResult := by
  intro s running
  refine ⟨?_, fun i v => exec_withResetMbox (s := { s with rdata := none }) running⟩
  exact (exec_mbox_of_running rfl running).trans (congrArg _ (mboxRecompute_clearMbox (s := { s with rdata := none }) running))

/-! ## Construction (R262) -/

/-- Settles O9: the router is fresh, both queues are empty, the guard is 0 and the line low. -/
theorem resetMeetsInvariant : Obligations.ResetMeetsInvariant :=
  ⟨routerReset_fresh, Queue.empty_ok _, Queue.empty_ok _, fun _ => ⟨rfl, rfl⟩⟩

theorem construct_line_low (p : Platform) (l : Line) : lineLevel (State.construct p) l = false := by
  cases l with
  | irq c | fiq c => exact Vector.getElem_replicate _
  | mboxIrq => rfl

/-- Settles O10: both blocks are as constructed in their reset state. -/
theorem registersReadAfterReset : Obligations.RegistersReadAfterReset := by
  intro p
  have mboxRead : ∀ {i v}, ReadsAfterResetMbox p.sentinel i v →
      exec i (State.construct p) = .next { State.construct p with rdata := some v } :=
    exec_withResetMbox (s := State.construct p) rfl
  refine ⟨fun i read => ?_, fun i read => ?_, fun i read => ?_, construct_line_low p⟩
  · obtain router | mbox := read
    · exact routerRegisterRead_of_reset rfl rfl router
    · exact mboxRead (.inr (.inl ⟨mbox, rfl⟩))
  · exact mboxRead (.inl ⟨read, rfl⟩)
  · exact mboxRead (.inr (.inr ⟨read, rfl⟩))

end Sys2Proof.Machine
end

section
/-! PROOFS. The re-entrancy window (R178, R270): a recompute whose only pass pulls nothing does not go back to a lower channel. -/

namespace Sys2Proof.Machine

theorem channels_above : ∀ ch : Channel, ∀ b ∈ allChannels.drop (ch.val + 1), ch.val < b.val := by decide

/-- A pass whose first read returns the sentinel ends there if no higher channel is available then: channels below are behind it (R174). -/
theorem drainScan_sentinel_last {s : State} {ch : Channel} (lowest : LowestAvailable s ch)
    (sentinel : (nextAnswer (.read (payloadAddr ch.val)) s).value = s.platform.sentinel)
    (running : (afterCellRead ch s).mboxFatal = none)
    (above : ∀ b : Channel, ch.val < b.val → (afterCellRead ch s).mbox.channelAvailable[b] = false) :
    drainScan allChannels s = (false, afterCellRead ch s) := by
  obtain ⟨available, below⟩ := lowest
  obtain ⟨around, low⟩ := allChannels_around ch
  have nothingAbove : drainScan (allChannels.drop (ch.val + 1)) (afterCellRead ch s) = (false, afterCellRead ch s) := by
    rw [← List.append_nil (allChannels.drop _), drainScan_skips [] fun b hb => above b (channels_above ch b hb), drainScan]
  rw [around, drainScan_skips _ fun b hb => below b (low b hb)]
  obtain ⟨stops, -⟩ | ⟨-, word, -⟩ | ⟨-, -, goesOn⟩ := drainScan_available (allChannels.drop (ch.val + 1)) available
  · exact absurd running stops
  · exact absurd sentinel word
  · exact goesOn.trans nothingAbove

/-- A recompute whose first pass pulls nothing and does not stop the block clears the guard and drives the line after it (R173). -/
theorem mboxRecompute_of_one_pass {s t : State} (notFull : s.mbox.rq.count ≠ 32)
    (scan : drainScan allChannels (setGuard true s) = (false, t)) (running : t.mboxFatal = none) :
    mboxRecompute s = driveMboxIrq (setGuard false t) := by
  have drained : drainLoop drainPasses (setGuard true s) = t := drainLoop_of_ended 32 notFull scan nofun
  obtain ⟨stops, -⟩ | ⟨-, he⟩ := mboxRecompute_cases s
  · rw [drained] at stops
    exact absurd running stops
  · rw [he, drained]

/-- A drain read in which one channel signal arrives uses its answer and sets the channel's flag (R175). -/
theorem afterCellRead_of_channel_signal {s : State} {ch lo : Channel} {v : Word} {l : Bool} {later : List EnvAnswer}
    (running : s.mboxFatal = none) (guard : s.mbox.updateInProgress = true)
    (answers : s.envAnswers = ⟨v, [.channel ⟨lo.val, by omega⟩ l]⟩ :: later) :
    afterCellRead ch s = setChannel lo l (useAnswer (.read (payloadAddr ch.val)) s) := by
  have answer : (nextAnswer (.read (payloadAddr ch.val)) s).nested = [.channel ⟨lo.val, by omega⟩ l] := by
    rw [nextAnswer, answers]
  obtain ⟨setsFlag, -, -⟩ :=
    guardSuppressesNestedRecompute id (useAnswer (.read (payloadAddr ch.val)) s) ⟨lo.val, by omega⟩ lo.isLt l running
  rw [afterCellRead, memAccess, answer]
  exact setsFlag guard

/-- Settles O38: the one pass goes on above the channel it read, where nothing is available, and pulls nothing. -/
theorem lowerChannelWaitsForNextRecompute : Obligations.LowerChannelWaitsForNextRecompute := by
  intro s lo ch later lower running room only answers
  have value : (nextAnswer (.read (payloadAddr ch.val)) s).value = s.platform.sentinel := by
    rw [nextAnswer, answers]
  have read : afterCellRead ch (setGuard true s) =
      setChannel lo true (useAnswer (.read (payloadAddr ch.val)) (setGuard true s)) :=
    afterCellRead_of_channel_signal running rfl answers
  have lowest : LowestAvailable (setGuard true s) ch := by
    refine ⟨(only ch).trans (decide_eq_true rfl), fun b hb => (only b).trans (decide_eq_false ?_)⟩
    rintro rfl
    exact hb.false
  have above : ∀ b : Channel, ch.val < b.val → (afterCellRead ch (setGuard true s)).mbox.channelAvailable[b] = false := by
    intro b hb
    have unavailable : s.mbox.channelAvailable[b] = false := (only b).trans (decide_eq_false (by rintro rfl; exact hb.false))
    have other : lo.val ≠ b.val := by omega
    rw [read]
    simpa [Vector.getElem_set, other] using unavailable
  have runs : (afterCellRead ch (setGuard true s)).mboxFatal = none := by rw [read]; exact running
  rw [mboxRecompute_of_one_pass room.ne (drainScan_sentinel_last lowest value runs above) runs, read]
  refine ⟨?_, rfl, ?_, ?_⟩
  · exact congrArg (fun v => s.mboxHistory ++ [.read (payloadAddr ch.val) v]) value
  · exact Vector.getElem_set_self _
  · exact congrArg List.tail answers

end Sys2Proof.Machine
end

section
/-! PROOFS. The rows of the opcode table against each other (R91 to R94): any two ask for different values of a key bit. -/

namespace Sys2Proof.Machine

/-- The rows' values, each cut to the other row's mask, differ: some key bit is fixed by both rows, at different values. -/
def rowsConflict (a b : OpcodeRow) : Prop := a.value &&& b.mask ≠ b.value &&& a.mask

theorem rowsConflict_symm : Std.Symm rowsConflict := ⟨fun _ _ => Ne.symm⟩

/-- A key that fits a row has the row's value on the row's mask. -/
theorem rowMatches_iff (k : Key) (row : OpcodeRow) : rowMatches k row = true ↔ k &&& row.mask = row.value := beq_iff_eq

/-- Conflicting rows have no key in common: on the bits both masks fix it would have the values of both. -/
theorem not_rowMatches_of_rowsConflict {k : Key} {a b : OpcodeRow} (conflict : rowsConflict a b)
    (fitsA : rowMatches k a = true) : rowMatches k b ≠ true := by
  intro fitsB
  rw [rowMatches_iff] at fitsA fitsB
  apply conflict
  calc a.value &&& b.mask = k &&& a.mask &&& b.mask := by rw [fitsA]
    _ = k &&& b.mask &&& a.mask := by rw [BitVec.and_assoc, BitVec.and_comm a.mask, BitVec.and_assoc]
    _ = b.value &&& a.mask := by rw [fitsB]

/-- Any two rows at different places of the table conflict. -/
theorem opcodeTable_rowsConflict : opcodeTable.Pairwise rowsConflict := by
  unfold rowsConflict
  decide +kernel

/-- Settles O3: two different rows of the table conflict, so no key fits both. -/
theorem opcodeRowsDisjoint : Obligations.OpcodeRowsDisjoint := by
  intro k a ha b hb fitsA fitsB
  by_contra different
  have := rowsConflict_symm
  have conflict : rowsConflict a b := opcodeTable_rowsConflict.forall ha hb different
  exact not_rowMatches_of_rowsConflict conflict fitsA fitsB

end Sys2Proof.Machine
end
